-- ==== Sys2Proof/Word.lean ====
section
/-! DEFINITION. The two word types of the block: 32-bit words (registers, table entries, commands; R6, R57) and 8-bit key
bytes (R10, R112). Every operation on them is the unsigned bit-vector one (R8). -/

namespace Sys2Proof

/-- A 32-bit word, bit 0 the least significant (R7). -/
abbrev Word := BitVec 32

/-- A key byte, an unsigned 8-bit value (R10, R112). -/
abbrev Byte := BitVec 8

end Sys2Proof
end

