-- ==== Sys2Proof/Syntax.lean ====
section
/-! DEFINITION. The commands of the block (one constructor per row of spec/opcode_table.json), the fields of a command word
(R71), what decoding a word answers (R75, R76), the registers and accesses a host has (R21, R28, R57), and the lines of the
spec's assembler (R77). -/

namespace Sys2Proof

/-- The two modes, INIT's M field (R73): 0 is STD, 1 is LEGACY. -/
inductive Mode where
  | std
  | legacy
  deriving DecidableEq, Repr

/-- The commands (R74). -/
inductive Instr where
  /-- INIT: open a transaction in a mode (R110). -/
  | init (m : Mode)
  /-- FEED: walk one key byte (R111). -/
  | feed (b : Byte)
  /-- FINAL: finish the transaction (R137). -/
  | final
  deriving DecidableEq, Repr

/-- The fields of a command word, from bit 31 down (R71). -/
structure Fields where
  /-- bits 31:30, the operation -/
  op   : BitVec 2
  /-- bits 29:9, reserved -/
  rsv  : BitVec 21
  /-- bit 8, INIT's mode -/
  m    : BitVec 1
  /-- bits 7:0, FEED's key byte -/
  byte : Byte
  deriving DecidableEq, Repr

/-- Why a word is no command: the four kinds of illegal word of R76. The block reports one code, ILLEGAL, for all of them;
the names are the model's own (log 16). -/
inductive Illegal where
  /-- OP = 00 -/
  | opZero
  /-- a non-zero bit in RSV -/
  | reservedBits
  /-- a FEED or FINAL word with M = 1 -/
  | modeBit
  /-- an INIT or FINAL word with a non-zero BYTE field -/
  | byteField
  deriving DecidableEq, Repr

/-- What decoding a command word answers: a command or Illegal (R75). -/
inductive Decoded where
  | legal (i : Instr)
  | illegal (why : Illegal)
  deriving DecidableEq, Repr

/-- The four host-visible registers of an engine (R21). -/
inductive Reg where
  | cmd
  | status
  | result
  | ecmd
  deriving DecidableEq, Repr

/-- A whole-word access of the host to one register of one engine, by the engine's number (R172) and the register's index
(R21). Both are plain numbers, so that an access to an index that does not exist can be written down, and is refused. -/
inductive Access where
  | write (engine index : Nat) (word : Word)
  | read (engine index : Nat)
  deriving DecidableEq, Repr

/-- An access on a byte-addressed host bus: an address, and the bytes written or the number of bytes read. What it means for
the word registers is HOST_BUS's to say (R57). -/
inductive BusAccess where
  | write (address : Nat) (bytes : List Byte)
  | read (address width : Nat)
  deriving DecidableEq, Repr

/-- What HOST_BUS makes of one bus access (R57, D21): any number of whole-word register accesses, one after the other, where
each may depend on the words read before it; and at the end what the bus itself remembers (a narrow write that waits to be
merged, for example) and the bytes it hands the host, in address order (the width and byte order of what a read returns).
A parameter's value, never part of State (log 6). -/
inductive BusPlan where
  /-- no further register access: what the bus remembers, and the bytes the host gets -/
  | done (latch bytes : List Byte)
  /-- write a word to a register of an engine, then go on -/
  | write (engine index : Nat) (word : Word) (next : BusPlan)
  /-- read a register of an engine, then go on with the word read -/
  | read (engine index : Nat) (next : Word → BusPlan)

/-- What the host does to the block: a register access, an access through the byte-addressed bus, or the reset of one
engine (R20, R57, R180). -/
inductive HostOp where
  | access (a : Access)
  | bus (b : BusAccess)
  | reset (engine : Nat)
  deriving DecidableEq, Repr

/-- A line of the spec's assembler (R77): a command, or a host read of STATUS, RESULT or ECMD. -/
inductive AsmLine where
  | command (i : Instr)
  | rdStatus
  | rdResult
  | rdEcmd
  deriving DecidableEq, Repr

end Sys2Proof
end

