-- ==== Sys2Proof/WellFormed.lean ====
section
/-! DEFINITION. Which command-word fields make a command (R71, R76): one check per line of R76. Every term of Instr is a
command by its type alone (a mode is one of two, a byte has 8 bits), so what is left to check is a word's fields. -/

namespace Sys2Proof

/-- OP = 00 is illegal (R76). -/
def Fields.opLegal (f : Fields) : Bool := f.op != 0#2

/-- RSV must be 0 in every command (R71). -/
def Fields.rsvLegal (f : Fields) : Bool := f.rsv == 0#21

/-- M must be 0 in FEED and FINAL; only INIT (OP = 01) may set it (R71). -/
def Fields.modeLegal (f : Fields) : Bool := f.op == 1#2 || f.m == 0#1

/-- BYTE must be 0 in INIT and FINAL; only FEED (OP = 10) may set it (R71). -/
def Fields.byteLegal (f : Fields) : Bool := f.op == 2#2 || f.byte == 0#8

/-- The fields spell a legal command (R71, R76). -/
def Fields.wellFormed (f : Fields) : Bool := f.opLegal && f.rsvLegal && f.modeLegal && f.byteLegal

end Sys2Proof
end

