-- ==== Sys2Proof/Decode.lean ====
section
/-! DEFINITION. Decoding of command words, total over all 2^32 words (R75), rejecting by name (R76); the encoder (R74); and
the numbering spec/opcode_table.json uses. A command is one 32-bit word, so there is no byte form to decode (R57, R70). -/

namespace Sys2Proof

/-- The fields of a command word (R71). -/
def fieldsOf (w : Word) : Fields :=
  { op := w.extractLsb' 30 2, rsv := w.extractLsb' 9 21, m := w.extractLsb' 8 1, byte := w.extractLsb' 0 8 }

/-- The mode that INIT's M bit selects: 0 is STD, 1 is LEGACY (R73). -/
def modeOfBit (m : BitVec 1) : Mode := if m = 1#1 then .legacy else .std

/-- Which line of R76 a word that is no command falls under, tried in R76's order. -/
def illegalReason (f : Fields) : Illegal :=
  if f.opLegal = false then .opZero
  else if f.rsvLegal = false then .reservedBits
  else if f.modeLegal = false then .modeBit
  else .byteField

/-- Decoding, the if-chain of R75 with R74's matches and masks. -/
def decode (w : Word) : Decoded :=
  if w &&& 0xFFFFFEFF#32 = 0x40000000#32 then .legal (.init (modeOfBit (w.extractLsb' 8 1)))
  else if w &&& 0xFFFFFF00#32 = 0x80000000#32 then .legal (.feed (w.extractLsb' 0 8))
  else if w = 0xC0000000#32 then .legal .final
  else .illegal (illegalReason (fieldsOf w))

/-- The word of a command; these are the only legal words (R74). -/
def encode : Instr → Word
  | .init .std    => 0x40000000#32
  | .init .legacy => 0x40000100#32
  | .feed b       => 0x80000000#32 ||| b.setWidth 32
  | .final        => 0xC0000000#32

/-- The command read from a word numbered as spec/opcode_table.json numbers it (bit 0 the least significant bit of the one
32-bit word); none where the word is illegal. -/
def decodeTableWord (nbits w : Nat) : Option Instr :=
  match decode (BitVec.ofNat 32 (w % 2 ^ nbits)) with
  | .legal i   => some i
  | .illegal _ => none

end Sys2Proof
end

