-- ==== Sys2Proof/Config.lean ====
section
/-! DEFINITION. The open parameters of the spec and the free values: constants without a body, so that whatever is proved
holds for every value they may have. Log 3 (free values), 4 (OVR), 5 (N_ENGINES), 6 (HOST_BUS). -/

namespace Sys2Proof

/-- The entries of the Override Set that the spec does not list (R133, U1, D11): which further 16-bit keys {B0, B1} are
codes, and with what value. Read only through ovrLookup, which adds the four given entries and the ASCII constraint. A
function, so each code has at most one value (R133 (a), D12). DESIGN CHOICE of form, safe (log 4). -/
opaque Config.ovrOther : BitVec 16 → Option Word

/-- N_ENGINES - 1 (R172, D18): the number of engines beside engine 0; at least one engine exists. Safe (log 5). -/
opaque Config.extraEngines : Nat

/-- HOST_BUS (R57, D21): given what the bus remembers and an access on it, the register accesses it makes, what it then
remembers and the bytes it returns; none where the platform defines nothing for the access. Safe (log 6). -/
opaque Config.hostBus : List Byte → BusAccess → Option BusPlan

/-- The unspecified words a host reset leaves in CRC and RESULT (R180), drawn by State.freeCtr. Safe (log 3). -/
opaque Config.freeWord : Nat → Word

/-- The unspecified bytes a host reset leaves in B0 and B1 (R180), drawn by State.freeCtr. Safe (log 3). -/
opaque Config.freeByte : Nat → Byte

end Sys2Proof
end

