-- ==== Sys2Proof/Machine/State.lean ====
section
/-! DEFINITION. The state of the block: the registers of every engine (R22), and beside them the model's own bookkeeping of
the host's accesses. The block has no memory that anything writes (R50, R53): TABLE and OVR are constants (R30, R183, R184). -/

namespace Sys2Proof.Machine

/-- PHASE (R23): IDLE, no transaction open; ACTIVE, INIT done and FINAL not yet. -/
inductive Phase where
  | idle
  | active
  deriving DecidableEq, Repr

/-- ERR (R161). Code 3 is reserved and never produced, so it has no constructor (log 13). -/
inductive ErrCode where
  | none
  | illegal
  | seq
  deriving DecidableEq, Repr

/-- The registers of one engine (R22). -/
structure Engine where
  /-- STATUS[0] -/
  phase  : Phase
  /-- STATUS[1], the mode of the last INIT -/
  mode   : Mode
  /-- STATUS[3:2], the saturating length class (R24) -/
  len    : BitVec 2
  /-- STATUS[4], result valid -/
  rv     : Bool
  /-- STATUS[6:5] -/
  err    : ErrCode
  /-- STATUS[7], the last FINAL took the override path -/
  oh     : Bool
  /-- the walk register, not host-visible (R26) -/
  crc    : Word
  /-- the first key byte, not host-visible -/
  b0     : Byte
  /-- the second key byte, not host-visible -/
  b1     : Byte
  /-- the value of the last FINAL (R25) -/
  result : Word
  /-- the command word that set ERR (R27) -/
  ecmd   : Word
  deriving DecidableEq, Repr

/-- What one register read returned (R58), and the registers of the engine as it found them (the model's own record, which
the host does not see; log 9). -/
structure HostRead where
  engine : Nat
  reg    : Reg
  value  : Word
  source : Engine
  deriving DecidableEq, Repr

/-- What one access on the byte-addressed bus returned to the host (R57): the bytes, in address order. -/
structure BusAnswer where
  access : BusAccess
  bytes  : List Byte
  deriving DecidableEq, Repr

/-- The whole block and the host's side of its registers. -/
structure State where
  /-- every engine's registers, engine 0 first (R172) -/
  engines : List Engine
  /-- the engine whose CMD was written last, on which exec acts; the model's own (log 1) -/
  sel     : Nat
  /-- the host's accesses not served yet, oldest first; the model's own (log 7) -/
  pending : List HostOp
  /-- what the register reads returned so far, oldest first; the model's own (log 9) -/
  reads   : List HostRead
  /-- what the byte-addressed bus remembers between accesses; HOST_BUS's own memory (R57, log 6) -/
  busLatch : List Byte
  /-- what the accesses on the byte-addressed bus returned so far, oldest first; the model's own (log 9) -/
  busAnswers : List BusAnswer
  /-- how many draws of free values were made; the model's own (log 3) -/
  freeCtr : Nat
  deriving DecidableEq, Repr

/-- Why the machine stops with a fault. -/
inductive Fault where
  /-- A host read of RESULT while RV = 0: the value is unspecified, and a model treats the read as a fault of the host
  (R25, U3). Raised by readRegister. Safe: the hardware goes on with any value (log 10). -/
  | resultNotValid
  deriving DecidableEq, Repr

/-- Why the model refuses. -/
inductive Refusal where
  /-- An instruction whose meaning is not written yet; raised by no arm of exec. Safe. -/
  | notModelled (mnemonic : String)
  /-- An access to an engine that does not exist: HOST_BUS does not define it (R172, U7). Raised by every operation that
  acts on an engine. Safe (log 11). -/
  | noSuchEngine
  /-- An access to a register index above 3: HOST_BUS does not define it (R21, U7). Raised by readRegister and serveAccess. Safe (log 11). -/
  | noSuchRegister
  /-- A bus access that HOST_BUS does not define (R57, U7). Raised by serve. Safe (log 11). -/
  | undefinedBusAccess
  deriving DecidableEq, Repr

/-- An engine right after its reset (R180), for given values of the four registers that R180 leaves unspecified. -/
def Engine.afterReset (crc : Word) (b0 b1 : Byte) (result : Word) : Engine :=
  { phase := .idle, mode := .std, len := 0#2, rv := false, err := .none, oh := false,
    crc := crc, b0 := b0, b1 := b1, result := result, ecmd := 0#32 }

/-- The block right after reset: every engine at R180's values, the four unspecified registers zero (DESIGN CHOICE, unsafe,
log 2), N_ENGINES engines (log 5), and no host access made yet. -/
def State.reset : State :=
  { engines := Engine.afterReset 0#32 0#8 0#8 0#32 ::
      List.replicate Config.extraEngines (Engine.afterReset 0#32 0#8 0#8 0#32)
    sel := 0, pending := [], reads := [], busLatch := [], busAnswers := [], freeCtr := 0 }

end Sys2Proof.Machine
end

