-- ==== Sys2Proof/Machine/Flags.lean ====
section
/-! DEFINITION. The status fields: their codes, the STATUS word (R23), and the saturating length class (R24). -/

namespace Sys2Proof.Machine

/-- PHASE as a bit: 0 IDLE, 1 ACTIVE (R22). -/
def phaseBit : Phase → BitVec 1
  | .idle   => 0#1
  | .active => 1#1

/-- MODE as a bit: 0 STD, 1 LEGACY (R22). -/
def modeBit : Mode → BitVec 1
  | .std    => 0#1
  | .legacy => 1#1

/-- The 2-bit error code (R161). -/
def errBits : ErrCode → BitVec 2
  | .none    => 0#2
  | .illegal => 1#2
  | .seq     => 2#2

/-- STATUS: OH, ERR, RV, LEN, MODE, PHASE from bit 7 down to bit 0, bits 31:8 zero (R23). -/
def statusWord (e : Engine) : Word :=
  0#24 ++ BitVec.ofBool e.oh ++ errBits e.err ++ BitVec.ofBool e.rv ++ e.len ++ modeBit e.mode ++ phaseBit e.phase

/-- LEN after one more byte: (LEN = 3) ? 3 : LEN + 1 (R24, R111). -/
def lenNext (l : BitVec 2) : BitVec 2 := if l = 3#2 then 3#2 else l + 1#2

/-- The length class of a key of n bytes, min(n, 3) (R24, R142). -/
def lenClass (n : Nat) : BitVec 2 := BitVec.ofNat 2 (min n 3)

end Sys2Proof.Machine
end

