-- ==== Sys2Proof/Machine/Operands.lean ====
section
/-! DEFINITION. Operand forms: how a key byte enters the walk (R72, R105), the table index (R105), the override key (R56,
R52), and the register an index names (R21). -/

namespace Sys2Proof.Machine

/-- zext_32: a key byte widened with zeros (R8, R72). -/
def zext32 (b : Byte) : Word := b.setWidth 32

/-- The table index of a walk step, (c ⊕ zext_32(b)) & 0xFF (R105). -/
def tableIndex (c : Word) (b : Byte) : Byte := ((c ^^^ zext32 b) &&& 0xFF#32).setWidth 8

/-- The override key {B0, B1}, the first key byte in the high bits (R8, R52, R56). -/
def ovrKey (b0 b1 : Byte) : BitVec 16 := b0 ++ b1

/-- The register an index names (R21); no other index exists. -/
def regOfIndex : Nat → Option Reg
  | 0 => some .cmd
  | 1 => some .status
  | 2 => some .result
  | 3 => some .ecmd
  | _ => none

/-- The index of a register (R21). -/
def indexOfReg : Reg → Nat
  | .cmd    => 0
  | .status => 1
  | .result => 2
  | .ecmd   => 3

end Sys2Proof.Machine
end

