-- ==== Sys2Proof/Machine/Ops.lean ====
section
/-! DEFINITION. The shared operations: the two read-only stores (R51, R52), the table walk (R105, R106), the finalisations
and the output mux (R130, R131, R136), the block's two functions (R140, R141), the command error and the quiescence check
around every command (R162, R163), and reaching an engine. -/

namespace Sys2Proof.Machine

/-! ## The CRC table -/

/-- POLY, the reflected generator polynomial (R6, R101). -/
def poly : Word := 0xEDB88320#32

/-- CRC_INIT, the initial register (R6, R106). -/
def crcInit : Word := 0xFFFFFFFF#32

/-- One round of R101's loop, also one step of the bit-serial register of R107: a right shift, and POLY when the bit shifted
out is 1. -/
def crcBit (c : Word) : Word := if c.getLsbD 0 then (c >>> 1) ^^^ poly else c >>> 1

/-- n rounds of R101's loop. -/
def crcBits : Nat → Word → Word
  | 0, c     => c
  | n + 1, c => crcBits n (crcBit c)

/-- TableRead(i) = TABLE[i], by R101's procedure (R51, R103; PRESUMED where R101 marks it general knowledge, log 14). -/
def tableRead (i : Byte) : Word := crcBits 8 (i.setWidth 32)

/-! ## The table walk -/

/-- The walk step (R105): TableRead((c ⊕ zext_32(b)) & 0xFF) ⊕ (c >> 8). -/
def crcStep (c : Word) (b : Byte) : Word := tableRead (tableIndex c b) ^^^ (c >>> 8)

/-- The accumulation over a key, from CRC_INIT (R106). -/
def acc (key : List Byte) : Word := key.foldl crcStep crcInit

/-- The table indices a walk from register c reads, in order (R109). -/
def walkIndices (c : Word) : List Byte → List Byte
  | []      => []
  | b :: bs => tableIndex c b :: walkIndices (crcStep c b) bs

/-! ## Finalisation, override matcher, output mux -/

/-- StdFinal(c) = ~c (R130). -/
def stdFinal (c : Word) : Word := ~~~c

/-- LegGenFinal(c) = ((~c) >> 16) & 0x7FFF (R131). -/
def legGenFinal (c : Word) : Word := ((~~~c) >>> 16) &&& 0x7FFF#32

/-- OvrLookup(k) (R52, R134): the four given entries "us", "fr", "br" and "in" (R133 (b)); never a code with a byte of 0x80
or above (R133 (d)); else what the open parameter OVR says (log 4). -/
def ovrLookup (k : BitVec 16) : Option Word :=
  if k = 0x7573#16 then some 0#32
  else if k = 0x6672#16 then some 1#32
  else if k = 0x6272#16 then some 2#32
  else if k = 0x696E#16 then some 6#32
  else if k.getLsbD 15 || k.getLsbD 7 then none
  else Config.ovrOther k

/-- The output mux (R136) over any override matcher: the value and OH. -/
def outMuxWith (lookup : BitVec 16 → Option Word) (mode : Mode) (len : BitVec 2) (b0 b1 : Byte) (crc : Word) : Word × Bool :=
  match mode with
  | .std    => (stdFinal crc, false)
  | .legacy =>
    if len = 2#2 then
      match lookup (ovrKey b0 b1) with
      | some v => (v, true)
      | none   => (legGenFinal crc, false)
    else (legGenFinal crc, false)

/-- The output mux with the block's own Override Set (R136). -/
def outMux (mode : Mode) (len : BitVec 2) (b0 b1 : Byte) (crc : Word) : Word × Bool :=
  outMuxWith ovrLookup mode len b0 b1 crc

/-! ## The two functions of the source -/

/-- standard_crc32(key) = ~Acc(key) (R140). -/
def standardCrc32 (key : List Byte) : Word := stdFinal (acc key)

/-- The override value of a key: OVR's, for a key of exactly two bytes (R135, R141). -/
def overrideOf : List Byte → Option Word
  | [b0, b1] => ovrLookup (ovrKey b0 b1)
  | _        => none

/-- legacy_shard_hash(key) (R141): the override value if there is one, else the generic value. -/
def legacyShardHash (key : List Byte) : Word :=
  match overrideOf key with
  | some v => v
  | none   => legGenFinal (acc key)

/-- The function a mode computes (R73). -/
def hashOf (mode : Mode) (key : List Byte) : Word :=
  match mode with
  | .std    => standardCrc32 key
  | .legacy => legacyShardHash key

/-- Whether a transaction on the key takes the override path (R142). -/
def overrideHit (mode : Mode) (key : List Byte) : Bool :=
  match mode with
  | .std    => false
  | .legacy => (overrideOf key).isSome

/-! ## Command errors and quiescence -/

/-- Error entry, raise CmdError(code) (R162): ERR and ECMD are written, no other register changes. w is the command word
being executed. There is no return from an error beside it (R165): only a reset clears ERR. -/
def raiseError (code : ErrCode) (w : Word) (e : Engine) : Engine := { e with err := code, ecmd := w }

/-- The pre-check of every command (R163, R164): an engine with ERR ≠ 0 ignores it. -/
def unlessQuiescent (f : Engine → Engine) (e : Engine) : Engine := if e.err = .none then f e else e

/-- The reset of an engine (R180), its four unspecified registers given. -/
def resetEngine (crc : Word) (b0 b1 : Byte) (result : Word) : Engine := Engine.afterReset crc b0 b1 result

/-! ## Reaching an engine -/

/-- The engine with number k, if it exists (R172). -/
def State.engine? (s : State) (k : Nat) : Option Engine := s.engines[k]?

/-- The state with the registers of engine k replaced. -/
def State.setEngine (s : State) (k : Nat) (e : Engine) : State := { s with engines := s.engines.set k e }

/-- The state in which the next command acts on engine k (log 1). -/
def State.select (s : State) (k : Nat) : State := { s with sel := k }

/-- The state with one more register read recorded (log 9). -/
def State.recordRead (s : State) (r : HostRead) : State := { s with reads := s.reads ++ [r] }

/-- The state after the bus is done with an access: what it now remembers, and the bytes it returned (R57). -/
def State.answerBus (s : State) (b : BusAccess) (latch bytes : List Byte) : State :=
  { s with busLatch := latch, busAnswers := s.busAnswers ++ [{ access := b, bytes := bytes }] }

/-- Go on with what was answered; a fault or a refusal stops. -/
def andThen {α β : Type} (o : Host.Outcome α Fault Refusal) (f : α → Host.Outcome β Fault Refusal) :
    Host.Outcome β Fault Refusal :=
  match o with
  | .next a    => f a
  | .fault r   => .fault r
  | .refused r => .refused r

/-- One command on the selected engine (R58, R163): its effect on the registers behind the quiescence check. -/
def onSelected (f : Engine → Engine) (s : State) : Host.Outcome State Fault Refusal :=
  match s.engine? s.sel with
  | some e => .next (s.setEngine s.sel (unlessQuiescent f e))
  | none   => .refused .noSuchEngine

/-- A command word that decodes to Illegal (R163): CmdError(ILLEGAL), in either phase. -/
def execIllegal (w : Word) (s : State) : Host.Outcome State Fault Refusal := onSelected (raiseError .illegal w) s

end Sys2Proof.Machine
end

