-- ==== Sys2Proof/Machine/Finalize.lean ====
section
/-! DEFINITION. FINAL, the command that finishes a transaction (R137). -/

namespace Sys2Proof.Machine

/-- FINAL's effect on the engine's registers (R137): SEQ while IDLE, else the output mux's value and OH, RV set and PHASE
IDLE. CRC, MODE, LEN, B0 and B1 stay. ECMD gets FINAL's one word (R74, log 12). -/
def finalEngine (e : Engine) : Engine :=
  match e.phase with
  | .idle   => raiseError .seq (encode .final) e
  | .active =>
    { e with
      result := (outMux e.mode e.len e.b0 e.b1 e.crc).1
      oh     := (outMux e.mode e.len e.b0 e.b1 e.crc).2
      rv     := true
      phase  := .idle }

/-- FINAL (R137). -/
def execFinal (s : State) : Host.Outcome State Fault Refusal := onSelected finalEngine s

end Sys2Proof.Machine
end

