-- ==== Sys2Proof/Machine/Walk.lean ====
section
/-! DEFINITION. INIT and FEED, the commands that drive the table walk (R110, R111). -/

namespace Sys2Proof.Machine

/-- INIT's effect on the engine's registers (R110). B0, B1 and RESULT stay; INIT is legal in both phases. -/
def initEngine (m : Mode) (e : Engine) : Engine :=
  { e with crc := crcInit, mode := m, len := 0#2, rv := false, oh := false, phase := .active }

/-- FEED's effect on the engine's registers (R111): SEQ while IDLE, else one walk step, the capture of the first two bytes
and the length class. ECMD gets FEED's one word (R74, log 12). -/
def feedEngine (b : Byte) (e : Engine) : Engine :=
  match e.phase with
  | .idle   => raiseError .seq (encode (.feed b)) e
  | .active =>
    { e with
      crc := crcStep e.crc b
      b0  := if e.len = 0#2 then b else e.b0
      b1  := if e.len = 1#2 then b else e.b1
      len := lenNext e.len }

/-- INIT (R110). -/
def execInit (m : Mode) (s : State) : Host.Outcome State Fault Refusal := onSelected (initEngine m) s

/-- FEED (R111). -/
def execFeed (b : Byte) (s : State) : Host.Outcome State Fault Refusal := onSelected (feedEngine b) s

end Sys2Proof.Machine
end

