-- ==== Sys2Proof/Machine/Dispatch.lean ====
section
/-! DEFINITION. exec: one arm per command of spec/opcode_table.json, each one call of its meaning. -/

namespace Sys2Proof.Machine

/-- The meaning of a command on the selected engine. -/
def exec (i : Instr) (s : State) : Host.Outcome State Fault Refusal :=
  match i with
  | .init m => Sys2Proof.Machine.execInit m s
  | .feed b => Sys2Proof.Machine.execFeed b s
  | .final => Sys2Proof.Machine.execFinal s

end Sys2Proof.Machine
end

