-- ==== Sys2Proof/Machine/Serve.lean ====
section
/-! DEFINITION. Serving one access of the host: command writes (R163), ignored writes and register reads (R28), resets
(R180, R182), and accesses through HOST_BUS (R57). -/

namespace Sys2Proof.Machine

/-- What a read of a register of the engine returns (R23, R25, R27, R28); none where the value is unspecified (R25). -/
def readReg (r : Reg) (e : Engine) : Option Word :=
  match r with
  | .cmd    => some 0#32
  | .status => some (statusWord e)
  | .result => if e.rv then some e.result else none
  | .ecmd   => some e.ecmd

/-- Execute(w) on the selected engine (R163): decode, then the command or CmdError(ILLEGAL); the quiescence check stands in
each of them (log 17). -/
def runCommand (w : Word) (s : State) : Host.Outcome State Fault Refusal :=
  match decode w with
  | .legal i   => exec i s
  | .illegal _ => execIllegal w s

/-- What a read of a register index of engine k answers (R21, R28, R58). RESULT while RV = 0 is a fault of the host (R25, U3,
log 10). -/
def readRegister (k i : Nat) (s : State) : Host.Outcome HostRead Fault Refusal :=
  match regOfIndex i with
  | none   => .refused .noSuchRegister
  | some r =>
    match s.engine? k with
    | none   => .refused .noSuchEngine
    | some e =>
      match readReg r e with
      | some v => .next { engine := k, reg := r, value := v, source := e }
      | none   => .fault .resultNotValid

/-- A host write to a read-only register has no effect on any state (R28). -/
def serveIgnoredWrite (k : Nat) (s : State) : Host.Outcome State Fault Refusal :=
  match s.engine? k with
  | none   => .refused .noSuchEngine
  | some _ => .next s

/-- A host write of a word to a register (R21, R28): CMD issues a command, the others ignore it. -/
def serveWrite (k : Nat) (r : Reg) (w : Word) (s : State) : Host.Outcome State Fault Refusal :=
  match r with
  | .cmd    => runCommand w (s.select k)
  | .status => serveIgnoredWrite k s
  | .result => serveIgnoredWrite k s
  | .ecmd   => serveIgnoredWrite k s

/-- The reset of one engine (R180, R182). CRC, RESULT, B0 and B1 get free values (log 3). -/
def serveReset (k : Nat) (s : State) : Host.Outcome State Fault Refusal :=
  match s.engine? k with
  | none   => .refused .noSuchEngine
  | some _ =>
    let n := s.freeCtr
    .next { s with
      engines := s.engines.set k
        (resetEngine (Config.freeWord (2 * n)) (Config.freeByte (2 * n)) (Config.freeByte (2 * n + 1))
          (Config.freeWord (2 * n + 1)))
      freeCtr := n + 1 }

/-- A whole-word access to a register of an engine (R21, R57). A read has no side effect on the block (R28): the value goes
to the host. -/
def serveAccess (a : Access) (s : State) : Host.Outcome State Fault Refusal :=
  match a with
  | .read k i => andThen (readRegister k i s) fun r => .next (s.recordRead r)
  | .write k i w =>
    match regOfIndex i with
    | some r => serveWrite k r w s
    | none   => .refused .noSuchRegister

/-- An access on the byte-addressed bus, as HOST_BUS carries it out (R57): its register accesses in order, then its answer. -/
def servePlan (b : BusAccess) : BusPlan → State → Host.Outcome State Fault Refusal
  | .done latch bytes, s => .next (s.answerBus b latch bytes)
  | .write k i w p, s    => andThen (serveAccess (.write k i w) s) fun t => servePlan b p t
  | .read k i p, s       => andThen (readRegister k i s) fun r => servePlan b (p r.value) (s.recordRead r)

/-- Whatever the host does to the block: a register access, a bus access as HOST_BUS defines it (U7), or a reset. -/
def serve (op : HostOp) (s : State) : Host.Outcome State Fault Refusal :=
  match op with
  | .access a => serveAccess a s
  | .bus b =>
    match Config.hostBus s.busLatch b with
    | some p => servePlan b p s
    | none   => .refused .undefinedBusAccess
  | .reset k => serveReset k s

end Sys2Proof.Machine
end

