-- ==== Sys2Proof/Machine/Step.lean ====
section
/-! DEFINITION. One step of the block: the oldest pending access of the host is served, whole (R58). -/

namespace Sys2Proof.Machine

/-- The state without its pending accesses but rest. -/
def State.withPending (s : State) (rest : List HostOp) : State := { s with pending := rest }

/-- One step (R58, R188): serve the oldest pending access; with none, all state persists (R174, log 8). -/
def step (s : State) : Host.Outcome State Fault Refusal :=
  match s.pending with
  | []         => .next s
  | op :: rest => serve op (s.withPending rest)

/-- The state whose next step executes the command word w on the engine selected last: the host's write of w to that
engine's CMD stands in front of the pending accesses (R29: the host's CMD writes are the program; log 7). -/
def State.withFetchWord (s : State) (nbits w : Nat) : State :=
  s.withPending (.access (.write s.sel (indexOfReg .cmd) (BitVec.ofNat 32 (w % 2 ^ nbits))) :: s.pending)

end Sys2Proof.Machine
end

