-- ==== Sys2Proof/Machine/Transaction.lean ====
section
/-! DEFINITION. What a host writes and reads to use the block: transactions (R139), the pseudo-commands (R78), and the
lines of the spec's assembler (R77). -/

namespace Sys2Proof.Machine

/-- The host's write of a command to engine k's CMD (R21, R77). -/
def cmdWrite (k : Nat) (i : Instr) : HostOp := .access (.write k (indexOfReg .cmd) (encode i))

/-- The host's read of a register of engine k (R77). -/
def regRead (k : Nat) (r : Reg) : HostOp := .access (.read k (indexOfReg r))

/-- A transaction on engine k (R139): INIT, one FEED for each key byte in order, FINAL. -/
def transaction (k : Nat) (m : Mode) (key : List Byte) : List HostOp :=
  cmdWrite k (.init m) :: (key.map fun b => cmdWrite k (.feed b)) ++ [cmdWrite k .final]

/-- HASH.STD and HASH.LEGACY (R78): a transaction, then RD RESULT. -/
def hashCommand (k : Nat) (m : Mode) (key : List Byte) : List HostOp := transaction k m key ++ [regRead k .result]

/-- What a line of assembler stands for on engine k (R77). -/
def asmOp (k : Nat) : AsmLine → HostOp
  | .command i => cmdWrite k i
  | .rdStatus  => regRead k .status
  | .rdResult  => regRead k .result
  | .rdEcmd    => regRead k .ecmd

/-- The value of a hexadecimal digit, upper or lower case. -/
def hexDigit (c : Char) : Option (BitVec 8) :=
  let n := c.toNat
  if 48 ≤ n ∧ n ≤ 57 then some (BitVec.ofNat 8 (n - 48))
  else if 65 ≤ n ∧ n ≤ 70 then some (BitVec.ofNat 8 (n - 55))
  else if 97 ≤ n ∧ n ≤ 102 then some (BitVec.ofNat 8 (n - 87))
  else none

/-- FEED's operand: 0xHH, or 'c' for the ASCII code of c (R77). -/
def asmByte : List Char → Option Byte
  | ['0', 'x', h, l] =>
    match hexDigit h, hexDigit l with
    | some a, some b => some (a <<< 4 ||| b)
    | _, _           => none
  | ['\'', c, '\''] => if c.toNat < 128 then some (BitVec.ofNat 8 c.toNat) else none
  | _ => none

/-- One line of assembler text, as its characters, with single spaces (R77, log 19); none where it is no line of R77. -/
def asmLine : List Char → Option AsmLine
  | ['I', 'N', 'I', 'T', ' ', 'S', 'T', 'D'] => some (.command (.init .std))
  | ['I', 'N', 'I', 'T', ' ', 'L', 'E', 'G', 'A', 'C', 'Y'] => some (.command (.init .legacy))
  | 'F' :: 'E' :: 'E' :: 'D' :: ' ' :: operand => (asmByte operand).map fun b => .command (.feed b)
  | ['F', 'I', 'N', 'A', 'L'] => some (.command .final)
  | ['R', 'D', ' ', 'S', 'T', 'A', 'T', 'U', 'S'] => some .rdStatus
  | ['R', 'D', ' ', 'R', 'E', 'S', 'U', 'L', 'T'] => some .rdResult
  | ['R', 'D', ' ', 'E', 'C', 'M', 'D'] => some .rdEcmd
  | _ => none

end Sys2Proof.Machine
end

