-- ==== Sys2Proof/Safety.lean ====
section
/-! DEFINITION. What a safe state of the block is, in the terms the statements use: the invariant of an engine's registers,
of what the host has read, and of the whole state. -/

namespace Sys2Proof.Machine

/-- The walk registers hold the walk of this key (R142): CRC is Acc of it, LEN its length class, B0 and B1 its first two
bytes where it has them. -/
structure Engine.Walked (e : Engine) (key : List Byte) : Prop where
  crc_eq : e.crc = acc key
  len_eq : e.len = lenClass key.length
  b0_eq  : ∀ b, key[0]? = some b → e.b0 = b
  b1_eq  : ∀ b, key[1]? = some b → e.b1 = b

/-- What holds of an engine's registers after any sequence of host accesses. -/
structure Engine.Inv (e : Engine) : Prop where
  /-- in an open transaction the registers hold the walk of the bytes fed so far (R142) -/
  active_walked : e.phase = .active → ∃ key, e.Walked key
  /-- no result is valid while a transaction is open (R110, R23) -/
  active_rv : e.phase = .active → e.rv = false
  /-- a valid result is the hash, in the mode STATUS shows, of the key the registers hold the walk of (R140 to R142) -/
  valid_result : e.rv = true → ∃ key, e.Walked key ∧ e.result = hashOf e.mode key ∧ e.oh = overrideHit e.mode key
  /-- OH is set only beside a valid result (R110, R137) -/
  oh_rv : e.oh = true → e.rv = true
  /-- ECMD is 0 until the first error (R27, R180) -/
  no_error : e.err = .none → e.ecmd = 0#32
  /-- ILLEGAL stands beside a word that is no command (R161) -/
  illegal_error : e.err = .illegal → ∃ why, decode e.ecmd = .illegal why
  /-- SEQ stands beside a FEED or FINAL word, and the phase is IDLE (R161) -/
  seq_error : e.err = .seq → e.phase = .idle ∧ ((∃ b, decode e.ecmd = .legal (.feed b)) ∨ decode e.ecmd = .legal .final)

/-- A recorded read is sound: it returned what its register holds (R23, R25, R27, R28) in an engine that meets the
invariant. So a RESULT read returned the hash, in the engine's mode, of the key the engine had walked. -/
structure HostRead.Sound (r : HostRead) : Prop where
  value_eq   : readReg r.reg r.source = some r.value
  source_inv : r.source.Inv

/-- The whole block is safe: every engine is, every value the host has read is sound, and the selected engine exists. -/
structure State.Inv (s : State) : Prop where
  engines_inv : ∀ e ∈ s.engines, e.Inv
  reads_sound : ∀ r ∈ s.reads, r.Sound
  sel_exists  : s.sel < s.engines.length

/-- n steps of the block, stopping at the first fault or refusal. -/
def steps : Nat → State → Host.Outcome State Fault Refusal
  | 0, s => .next s
  | n + 1, s =>
    match step s with
    | .next t    => steps n t
    | .fault f   => .fault f
    | .refused r => .refused r

/-- Engine k exists and has no error recorded: what the host owes a transaction at its start (R139, R169). -/
def State.Ready (s : State) (k : Nat) : Prop := ∃ e, s.engine? k = some e ∧ e.err = .none

/-- The access is a write of a command word to an existing engine's CMD: the accesses that always complete (R58, R160). -/
def State.IsCommandWrite (s : State) (op : HostOp) : Prop :=
  ∃ k w, op = .access (.write k (indexOfReg .cmd) w) ∧ k < s.engines.length

/-- The engine a register access or reset of the host is for; none for an access on the byte-addressed bus. -/
def opEngine : HostOp → Option Nat
  | .access (.write k _ _) => some k
  | .access (.read k _)    => some k
  | .bus _                 => none
  | .reset k               => some k

end Sys2Proof.Machine
end

