-- ==== Sys2Proof/Certificates/Slice0/Obligations.lean ====
section
/-! DEFINITION. The statements for the provers. R<n> is a rule of spec/; each statement's docstring says which it formalises. -/

open Sys2Proof Sys2Proof.Machine

/-! ## Encoding -/

/-- R74, R75: a word decodes to a command exactly when it is that command's word, for every mode and every byte. -/
def Obligations.DecodeInvertsEncode : Prop :=
  ∀ (w : Word) (i : Instr), decode w = .legal i ↔ w = encode i

/-- R74: a word is a command exactly when it matches that command's pattern under its mask, and the legal words are the ones
listed there. -/
def Obligations.CommandPatternsAreExact : Prop :=
  (∀ w : Word, (∃ m, decode w = .legal (.init m)) ↔ w &&& 0xFFFFFEFF#32 = 0x40000000#32) ∧
  (∀ w : Word, (∃ b, decode w = .legal (.feed b)) ↔ w &&& 0xFFFFFF00#32 = 0x80000000#32) ∧
  (∀ w : Word, decode w = .legal .final ↔ w &&& 0xFFFFFFFF#32 = 0xC0000000#32) ∧
  (∀ w : Word, (∃ i, decode w = .legal i) ↔
    w = 0x40000000#32 ∨ w = 0x40000100#32 ∨ (∃ b : Byte, w = 0x80000000#32 ||| b.setWidth 32) ∨ w = 0xC0000000#32)

/-- R76: the illegal words are those with OP = 00, a reserved bit, M in a FEED or FINAL word, or BYTE in an INIT or FINAL
word. -/
def Obligations.IllegalWordsByField : Prop :=
  ∀ w : Word, (∃ why, decode w = .illegal why) ↔
    w.extractLsb' 30 2 = 0#2 ∨ w.extractLsb' 9 21 ≠ 0#21 ∨
    ((w.extractLsb' 30 2 = 2#2 ∨ w.extractLsb' 30 2 = 3#2) ∧ w.extractLsb' 8 1 = 1#1) ∨
    ((w.extractLsb' 30 2 = 1#2 ∨ w.extractLsb' 30 2 = 3#2) ∧ w.extractLsb' 0 8 ≠ 0#8)

/-- Words written out from R74 decode to their commands, and words from the error rows of the spec's vectors decode as
illegal. Which of the four names of Illegal an illegal word gets is the model's choice (log 16): the block reports one code,
ILLEGAL, for all of them. -/
def Obligations.SampleWordsDecode : Prop :=
  decode 0x40000000#32 = .legal (.init .std) ∧ decode 0x40000100#32 = .legal (.init .legacy) ∧
  decode 0x80000061#32 = .legal (.feed 0x61#8) ∧ decode 0xC0000000#32 = .legal .final ∧
  decode 0x00000000#32 = .illegal .opZero ∧ decode 0xE0000000#32 = .illegal .reservedBits ∧
  decode 0x80000100#32 = .illegal .modeBit ∧ decode 0x40000001#32 = .illegal .byteField

/-- R77: the lines of assembler text stand for these commands and reads, FEED for every byte in either spelling (0xHH, and
the ASCII code of a quoted character), and each is its access to every engine. Single spaces, the case of the digits and the
quoted characters being ASCII are the model's choice (log 19). -/
def Obligations.AssemblerLinesSpellAccesses : Prop :=
  asmLine ['I', 'N', 'I', 'T', ' ', 'S', 'T', 'D'] = some (.command (.init .std)) ∧
  asmLine ['I', 'N', 'I', 'T', ' ', 'L', 'E', 'G', 'A', 'C', 'Y'] = some (.command (.init .legacy)) ∧
  (∀ h l : Fin 16, ∀ H ∈ [Nat.digitChar h, (Nat.digitChar h).toUpper], ∀ L ∈ [Nat.digitChar l, (Nat.digitChar l).toUpper],
    asmLine ['F', 'E', 'E', 'D', ' ', '0', 'x', H, L] = some (.command (.feed (BitVec.ofNat 8 (16 * h.val + l.val))))) ∧
  (∀ c : Char, c.toNat < 128 →
    asmLine ['F', 'E', 'E', 'D', ' ', '\'', c, '\''] = some (.command (.feed (BitVec.ofNat 8 c.toNat)))) ∧
  asmLine ['F', 'I', 'N', 'A', 'L'] = some (.command .final) ∧
  asmLine ['R', 'D', ' ', 'S', 'T', 'A', 'T', 'U', 'S'] = some .rdStatus ∧
  asmLine ['R', 'D', ' ', 'R', 'E', 'S', 'U', 'L', 'T'] = some .rdResult ∧
  asmLine ['R', 'D', ' ', 'E', 'C', 'M', 'D'] = some .rdEcmd ∧
  ∀ k : Nat,
    asmOp k (.command (.init .std)) = .access (.write k 0 0x40000000#32) ∧
    asmOp k (.command (.init .legacy)) = .access (.write k 0 0x40000100#32) ∧
    (∀ b : Byte, asmOp k (.command (.feed b)) = .access (.write k 0 (0x80000000#32 ||| b.setWidth 32))) ∧
    asmOp k (.command .final) = .access (.write k 0 0xC0000000#32) ∧
    asmOp k .rdStatus = .access (.read k 1) ∧ asmOp k .rdResult = .access (.read k 2) ∧
    asmOp k .rdEcmd = .access (.read k 3)

/-! ## The table and the walk -/

/-- R102: the table the machine computes by R101 is the 256 listed values. Both are marked general knowledge by the spec and
PRESUMED in log 14, so the statement is derived. -/
def Obligations.TableMatchesListing : Prop :=
  tableListing.length = 256 ∧ ∀ i : Byte, tableListing[i.toNat]? = some (tableRead i)

/-- R104, an inference of the spec's own ("[derived: from rule R101]"): the listed entries, linearity, the entries at the powers of two, and that all entries and their top bytes differ. -/
def Obligations.TableIsLinearAndInjective : Prop :=
  tableRead 0x00#8 = 0x00000000#32 ∧ tableRead 0x80#8 = 0xEDB88320#32 ∧ tableRead 0xFF#8 = 0x2D02EF8D#32 ∧
  (∀ i j : Byte, tableRead (i ^^^ j) = tableRead i ^^^ tableRead j) ∧
  ([0x01#8, 0x02#8, 0x04#8, 0x08#8, 0x10#8, 0x20#8, 0x40#8, 0x80#8].map tableRead =
    [0x77073096#32, 0xEE0E612C#32, 0x076DC419#32, 0x0EDB8832#32, 0x1DB71064#32, 0x3B6E20C8#32, 0x76DC4190#32,
      0xEDB88320#32]) ∧
  (∀ i j : Byte, tableRead i = tableRead j → i = j) ∧
  (∀ i j : Byte, (tableRead i).extractLsb' 24 8 = (tableRead j).extractLsb' 24 8 → i = j)

/-- R105: the walk step is the table update, its index is c[7:0] ⊕ b, and the result's top byte is the table entry's. -/
def Obligations.WalkStepIsTableUpdate : Prop :=
  ∀ (c : Word) (b : Byte),
    crcStep c b = tableRead (((c ^^^ b.setWidth 32) &&& 0xFF#32).setWidth 8) ^^^ (c >>> 8) ∧
    tableIndex c b = c.extractLsb' 0 8 ^^^ b ∧
    (c >>> 8).extractLsb' 24 8 = 0#8 ∧
    (crcStep c b).extractLsb' 24 8 = (tableRead (tableIndex c b)).extractLsb' 24 8

/-- R107, an inference of the spec's own ("Step equals eight steps of a bit-serial register"): a walk step is eight steps of
the bit-serial register. -/
def Obligations.WalkStepIsEightBitSteps : Prop :=
  ∀ (c : Word) (b : Byte),
    crcStep c b =
      Nat.repeat (fun x : Word => if x.getLsbD 0 then (x >>> 1) ^^^ 0xEDB88320#32 else x >>> 1) 8 (c ^^^ b.setWidth 32)

/-- R108, an inference of the spec's own: the walk of a concatenation goes on from the first part's register. -/
def Obligations.WalkOfConcatenation : Prop :=
  ∀ k1 k2 : List Byte, acc (k1 ++ k2) = k2.foldl crcStep (acc k1)

/-- R109: a walk of n bytes reads the table n times, and its register depends on the entries at those indices alone. -/
def Obligations.WalkReadsOneEntryPerByte : Prop :=
  ∀ (c : Word) (key : List Byte),
    (walkIndices c key).length = key.length ∧
    key.foldl crcStep c = (walkIndices c key).foldl (fun (x : Word) i => tableRead i ^^^ (x >>> 8)) c

/-- R112, an inference of the spec's own: a byte widened with its sign gives the same table index. -/
def Obligations.SignedByteSameIndex : Prop :=
  ∀ (c : Word) (b : Byte), (((c ^^^ b.signExtend 32) &&& 0xFF#32).setWidth 8 : Byte) = tableIndex c b

/-- R138 ("In STD mode RESULT may be any 32-bit value"), an inference of the spec's own and here made stronger: every word is the standard CRC of some four-byte key, and on four-byte keys of only one. -/
def Obligations.StandardCrcReachesEveryWord : Prop :=
  ∀ v : Word, ∃! key : List Byte, key.length = 4 ∧ standardCrc32 key = v

/-! ## Finalisation, override matcher, output mux -/

/-- R130: the STD finalisation is the complement, the exclusive or with all ones. -/
def Obligations.StdFinalisationIsComplement : Prop :=
  ∀ c : Word, stdFinal c = ~~~c ∧ stdFinal c = c ^^^ 0xFFFFFFFF#32

/-- R131: the LEGACY generic value is bits 30:16 of the complement at bits 14:0, with bits 31:15 zero. -/
def Obligations.LegacyGenericBits : Prop :=
  ∀ c : Word,
    legGenFinal c = ((~~~c) >>> 16) &&& 0x7FFF#32 ∧
    (legGenFinal c).extractLsb' 0 15 = (~~~c).extractLsb' 16 15 ∧
    (legGenFinal c).extractLsb' 15 17 = 0#17

/-- R132, an inference of the spec's own: the LEGACY generic value is the STD value shifted and masked, and for every key of length other than 2 the LEGACY
hash is. -/
def Obligations.LegacyIsShiftedStandard : Prop :=
  (∀ c : Word, legGenFinal c = (stdFinal c >>> 16) &&& 0x7FFF#32) ∧
  (∀ key : List Byte, key.length ≠ 2 →
    legacyShardHash key = (standardCrc32 key >>> 16) &&& 0x7FFF#32 ∧
    legacyShardHash key = ((~~~acc key) >>> 16) &&& 0x7FFF#32)

/-- R133: the four given entries are in the Override Set, and no code with a byte of 0x80 or above is. -/
def Obligations.OverrideSetConstraints : Prop :=
  ovrLookup (ovrKey 0x75#8 0x73#8) = some 0#32 ∧ ovrLookup (ovrKey 0x66#8 0x72#8) = some 1#32 ∧
  ovrLookup (ovrKey 0x62#8 0x72#8) = some 2#32 ∧ ovrLookup (ovrKey 0x69#8 0x6E#8) = some 6#32 ∧
  ∀ b0 b1 : Byte, (0x80#8 ≤ b0 ∨ 0x80#8 ≤ b1) → ovrLookup (ovrKey b0 b1) = none

/-- R135: FINAL consults the matcher exactly in LEGACY mode with LEN = 2: then its answer for the key decides, elsewhere
another matcher gives the same; and no key of another length has an override value. -/
def Obligations.MatcherConsultedForLegacyPairsOnly : Prop :=
  ∀ (f g : BitVec 16 → Option Word) (mode : Mode) (len : BitVec 2) (b0 b1 : Byte) (c : Word),
    ((mode = .std ∨ len ≠ 2#2) → outMuxWith f mode len b0 b1 c = outMuxWith g mode len b0 b1 c) ∧
    (f (ovrKey b0 b1) = g (ovrKey b0 b1) → outMuxWith f mode len b0 b1 c = outMuxWith g mode len b0 b1 c) ∧
    (∀ v, mode = .legacy → len = 2#2 → f (ovrKey b0 b1) = some v → outMuxWith f mode len b0 b1 c = (v, true)) ∧
    (∀ key : List Byte, key.length ≠ 2 → overrideOf key = none)

/-- R136: the three choices of the output mux, with the block's own Override Set. -/
def Obligations.OutputMuxChoices : Prop :=
  ∀ (mode : Mode) (len : BitVec 2) (b0 b1 : Byte) (c : Word),
    (mode = .std → outMux mode len b0 b1 c = (~~~c, false)) ∧
    (∀ v, mode = .legacy → len = 2#2 → ovrLookup (b0 ++ b1) = some v → outMux mode len b0 b1 c = (v, true)) ∧
    (mode = .legacy → (len ≠ 2#2 ∨ ovrLookup (b0 ++ b1) = none) →
      outMux mode len b0 b1 c = (((~~~c) >>> 16) &&& 0x7FFF#32, false))

/-- The source's check values (95_test_vectors.md V1 to V6), and the generic values of V33 and V38. -/
def Obligations.SourceCheckValues : Prop :=
  standardCrc32 [0x31#8, 0x32#8, 0x33#8, 0x34#8, 0x35#8, 0x36#8, 0x37#8, 0x38#8, 0x39#8] = 0xCBF43926#32 ∧
  standardCrc32 [] = 0#32 ∧ legacyShardHash [0x75#8, 0x73#8] = 0#32 ∧ legacyShardHash [0x66#8, 0x72#8] = 1#32 ∧
  legacyShardHash [0x62#8, 0x72#8] = 2#32 ∧ legacyShardHash [0x69#8, 0x6E#8] = 6#32 ∧
  legacyShardHash [0xFF#8, 0xFF#8] = 0x7FFF#32 ∧
  legacyShardHash [0x31#8, 0x32#8, 0x33#8, 0x34#8, 0x35#8, 0x36#8, 0x37#8, 0x38#8, 0x39#8] = 0x4BF4#32

/-! ## The commands -/

/-- R110: INIT with no error recorded opens a transaction, in either phase, and changes nothing else. -/
def Obligations.InitOpensTransaction : Prop :=
  ∀ (s : State) (e : Engine) (m : Mode), s.engine? s.sel = some e → e.err = .none →
    exec (.init m) s = .next (s.setEngine s.sel
      { e with crc := 0xFFFFFFFF#32, mode := m, len := 0#2, rv := false, oh := false, phase := .active })

/-- R111: FEED in an open transaction walks its byte, captures the first two bytes and steps LEN, and changes nothing else. -/
def Obligations.FeedWalksOneByte : Prop :=
  ∀ (s : State) (e : Engine) (b : Byte), s.engine? s.sel = some e → e.err = .none → e.phase = .active →
    exec (.feed b) s = .next (s.setEngine s.sel
      { e with
        crc := tableRead (((e.crc ^^^ b.setWidth 32) &&& 0xFF#32).setWidth 8) ^^^ (e.crc >>> 8)
        b0  := if e.len = 0#2 then b else e.b0
        b1  := if e.len = 1#2 then b else e.b1
        len := if e.len = 3#2 then 3#2 else e.len + 1#2 })

/-- R137: FINAL in an open transaction puts the mux's value on RESULT, sets OH and RV, closes it, and changes nothing else. -/
def Obligations.FinalProducesResult : Prop :=
  ∀ (s : State) (e : Engine), s.engine? s.sel = some e → e.err = .none → e.phase = .active →
    exec .final s = .next (s.setEngine s.sel
      { e with
        result := (outMux e.mode e.len e.b0 e.b1 e.crc).1
        oh     := (outMux e.mode e.len e.b0 e.b1 e.crc).2
        rv     := true
        phase  := .idle })

/-- R161, R162: FEED and FINAL while IDLE record SEQ and their word, and change nothing else. -/
def Obligations.OutOfSequenceRaisesSeq : Prop :=
  ∀ (s : State) (e : Engine), s.engine? s.sel = some e → e.err = .none → e.phase = .idle →
    (∀ b : Byte, exec (.feed b) s =
      .next (s.setEngine s.sel { e with err := .seq, ecmd := 0x80000000#32 ||| b.setWidth 32 })) ∧
    exec .final s = .next (s.setEngine s.sel { e with err := .seq, ecmd := 0xC0000000#32 })

/-- R163, R164: a command on an engine with an error recorded completes and changes nothing at all. -/
def Obligations.QuiescentEngineIgnoresCommands : Prop :=
  ∀ (i : Instr) (s : State) (e : Engine), s.engine? s.sel = some e → e.err ≠ .none → exec i s = .next s

/-- R172, U7: a command for an engine that does not exist is refused by name, whichever command it is. -/
def Obligations.CommandNeedsAnEngine : Prop :=
  ∀ (i : Instr) (s : State), s.engines.length ≤ s.sel → exec i s = .refused .noSuchEngine

/-- The frame of every command (R22, R58): only the selected engine's registers may change. -/
def Obligations.CommandTouchesOneEngine : Prop :=
  ∀ (i : Instr) (s t : State), exec i s = .next t →
    t.sel = s.sel ∧ t.pending = s.pending ∧ t.reads = s.reads ∧ t.freeCtr = s.freeCtr ∧
    t.busLatch = s.busLatch ∧ t.busAnswers = s.busAnswers ∧
    t.engines.length = s.engines.length ∧ ∀ j, j ≠ s.sel → t.engine? j = s.engine? j

/-- The frame of each command on its engine (R22's "written by" column): a register keeps its value unless the command is
one that R22 says writes it. -/
def Obligations.RegistersWrittenByColumn : Prop :=
  ∀ (i : Instr) (s t : State) (e e' : Engine), exec i s = .next t → s.engine? s.sel = some e → t.engine? s.sel = some e' →
    ((∀ m, i ≠ .init m) → e'.mode = e.mode ∧ (i ≠ .final → e'.phase = e.phase ∧ e'.rv = e.rv ∧ e'.oh = e.oh)) ∧
    ((∀ b, i ≠ .feed b) → e'.b0 = e.b0 ∧ e'.b1 = e.b1) ∧
    (∀ b, i = .feed b → (e.len ≠ 0#2 → e'.b0 = e.b0) ∧ (e.len ≠ 1#2 → e'.b1 = e.b1)) ∧
    (i ≠ .final → e'.result = e.result) ∧
    (i = .final → e'.crc = e.crc ∧ e'.len = e.len) ∧
    (∀ m, i = .init m → e'.err = e.err) ∧
    (e'.err = e.err → e'.ecmd = e.ecmd)

/-! ## Serving the host -/

/-- R29, R58: a write of a command's word to CMD, served, is exec of that command on that engine. -/
def Obligations.StepRunsDecodedCommand : Prop :=
  ∀ (s : State) (k : Nat) (w : Word) (i : Instr) (rest : List HostOp),
    s.pending = .access (.write k 0 w) :: rest → decode w = .legal i →
    step s = exec i ((s.withPending rest).select k)

/-- The interface's fetch: the state with a word placed for the next step runs the command the decoder reads from it. -/
def Obligations.FetchedWordRunsNext : Prop :=
  ∀ (s : State) (w : Nat) (i : Instr), decodeTableWord 32 w = some i →
    step (s.withFetchWord 32 w) = exec i s

/-- R163: the order in which a CMD write is handled: quiescence, then decoding, then the command. -/
def Obligations.CommandWriteOrder : Prop :=
  ∀ (s : State) (k : Nat) (w : Word) (e : Engine) (rest : List HostOp),
    s.pending = .access (.write k 0 w) :: rest → s.engine? k = some e →
    (e.err ≠ .none → step s = .next ((s.withPending rest).select k)) ∧
    (∀ why, e.err = .none → decode w = .illegal why →
      step s = .next (((s.withPending rest).select k).setEngine k { e with err := .illegal, ecmd := w })) ∧
    (∀ i, e.err = .none → decode w = .legal i → step s = exec i ((s.withPending rest).select k))

/-- R162: a command that records an error has no other effect: ERR and ECMD, which holds the very word written, change, and
no other register of that engine or of another. -/
def Obligations.ErrorsArePrecise : Prop :=
  ∀ (s t : State) (k : Nat) (w : Word) (e e' : Engine) (rest : List HostOp),
    s.pending = .access (.write k 0 w) :: rest → s.engine? k = some e → e.err = .none →
    step s = .next t → t.engine? k = some e' → e'.err ≠ .none →
    e' = { e with err := e'.err, ecmd := w } ∧
    (∀ why, decode w = .illegal why → e'.err = .illegal) ∧ (∀ i, decode w = .legal i → e'.err = .seq) ∧
    (∀ j, j ≠ k → t.engine? j = s.engine? j) ∧ t.pending = rest ∧ t.reads = s.reads ∧ t.freeCtr = s.freeCtr ∧
    t.busLatch = s.busLatch ∧ t.busAnswers = s.busAnswers

/-- R164: once an error is recorded an engine's registers stay as they are through any run without a reset of it, and reads
of it still return their values. -/
def Obligations.ErrorsStickUntilReset : Prop :=
  (∀ (n : Nat) (s t : State) (k : Nat) (e : Engine), s.engine? k = some e → e.err ≠ .none →
    (∀ op ∈ s.pending.take n, op ≠ .reset k) → steps n s = .next t → t.engine? k = some e) ∧
  (∀ (s : State) (k : Nat) (e : Engine) (r : Reg) (v : Word) (rest : List HostOp), s.engine? k = some e → e.err ≠ .none →
    s.pending = regRead k r :: rest → readReg r e = some v →
    step s = .next { s with pending := rest, reads := s.reads ++ [{ engine := k, reg := r, value := v, source := e }] })

/-- R23: the layout of STATUS. -/
def Obligations.StatusLayout : Prop :=
  ∀ e : Engine,
    (statusWord e).getLsbD 0 = (e.phase == .active) ∧ (statusWord e).getLsbD 1 = (e.mode == .legacy) ∧
    (statusWord e).extractLsb' 2 2 = e.len ∧ (statusWord e).getLsbD 4 = e.rv ∧
    (statusWord e).extractLsb' 5 2 = (match e.err with | .none => 0#2 | .illegal => 1#2 | .seq => 2#2) ∧
    (statusWord e).getLsbD 7 = e.oh ∧ (statusWord e).extractLsb' 8 24 = 0#24

/-- R21, R23, R25, R27: what a read of each register returns, and that RESULT without RV is a fault of the host. -/
def Obligations.RegisterReadsAnswer : Prop :=
  ∀ (s : State) (k : Nat) (e : Engine) (rest : List HostOp), s.engine? k = some e →
    (s.pending = .access (.read k 1) :: rest → step s =
      .next { s with
        pending := rest
        reads := s.reads ++ [{ engine := k, reg := .status, value := statusWord e, source := e }] }) ∧
    (s.pending = .access (.read k 2) :: rest → e.rv = true → step s =
      .next { s with
        pending := rest
        reads := s.reads ++ [{ engine := k, reg := .result, value := e.result, source := e }] }) ∧
    (s.pending = .access (.read k 2) :: rest → e.rv = false → step s = .fault .resultNotValid) ∧
    (s.pending = .access (.read k 3) :: rest → step s =
      .next { s with
        pending := rest
        reads := s.reads ++ [{ engine := k, reg := .ecmd, value := e.ecmd, source := e }] })

/-- R28: a write to STATUS, RESULT or ECMD has no effect, a read of CMD returns 0, and no read has a side effect. -/
def Obligations.PlainAccessesHaveNoEffect : Prop :=
  ∀ (s : State) (k : Nat) (e : Engine) (rest : List HostOp), s.engine? k = some e →
    (∀ (i : Nat) (w : Word), i = 1 ∨ i = 2 ∨ i = 3 → s.pending = .access (.write k i w) :: rest →
      step s = .next (s.withPending rest)) ∧
    (s.pending = .access (.read k 0) :: rest → step s =
      .next { s with
        pending := rest
        reads := s.reads ++ [{ engine := k, reg := .cmd, value := 0x00000000#32, source := e }] }) ∧
    (∀ (i : Nat) (t : State), s.pending = .access (.read k i) :: rest → step s = .next t →
      t.engines = s.engines ∧ t.sel = s.sel ∧ t.freeCtr = s.freeCtr ∧ t.pending = rest ∧
      t.busLatch = s.busLatch ∧ t.busAnswers = s.busAnswers)

/-- R21, R172, U7: an access to an index above 3, or to an engine that does not exist, is refused by name. -/
def Obligations.UndefinedAccessesAreRefused : Prop :=
  ∀ (s : State) (k i : Nat) (w : Word) (rest : List HostOp),
    (4 ≤ i → (s.pending = .access (.write k i w) :: rest ∨ s.pending = .access (.read k i) :: rest) →
      step s = .refused .noSuchRegister) ∧
    (i < 4 → s.engines.length ≤ k →
      (s.pending = .access (.write k i w) :: rest ∨ s.pending = .access (.read k i) :: rest ∨ s.pending = .reset k :: rest) →
      step s = .refused .noSuchEngine)

/-- R57, U7: an access on the byte-addressed bus is carried out by the plan that HOST_BUS makes of it and of what the bus
remembers, and is refused where HOST_BUS makes none. A plan's whole-word register accesses are served in order, each as the
host's own would be, later ones with the words read before; a stop of one stops all; the end records the bus's memory and the
bytes returned. -/
def Obligations.BusAccessFollowsHostBus : Prop :=
  (∀ (s : State) (b : BusAccess) (rest : List HostOp), s.pending = .bus b :: rest →
    step s = match Config.hostBus s.busLatch b with
      | some p => servePlan b p (s.withPending rest)
      | none   => .refused .undefinedBusAccess) ∧
  ∀ (s : State) (b : BusAccess) (k : Nat),
    (∀ latch bytes, servePlan b (.done latch bytes) s =
      .next { s with busLatch := latch, busAnswers := s.busAnswers ++ [{ access := b, bytes := bytes }] }) ∧
    (∀ i w p, servePlan b (.write k i w p) s = match step (s.withPending (.access (.write k i w) :: s.pending)) with
      | .next t    => servePlan b p t
      | .fault f   => .fault f
      | .refused r => .refused r) ∧
    (∀ i p, let o := step (s.withPending (.access (.read k i) :: s.pending))
      (∃ t r, o = .next t ∧ t.reads = s.reads ++ [r] ∧ servePlan b (.read k i p) s = servePlan b (p r.value) t) ∨
      (∃ f, o = .fault f ∧ servePlan b (.read k i p) s = .fault f) ∨
      (∃ r, o = .refused r ∧ servePlan b (.read k i p) s = .refused r))

/-- R174: with no access pending all state persists. -/
def Obligations.IdleStatePersists : Prop :=
  ∀ s : State, s.pending = [] → step s = .next s

/-- R172, R182: serving an access to one engine leaves every other engine as it was. -/
def Obligations.OtherEnginesUntouched : Prop :=
  ∀ (s t : State) (op : HostOp) (rest : List HostOp) (k j : Nat),
    s.pending = op :: rest → opEngine op = some k → step s = .next t → j ≠ k → t.engine? j = s.engine? j

/-! ## Reset -/

/-- R180 at reset: every engine's STATUS and ECMD read 0, and every engine is IDLE, STD, with no byte fed, no result and no
error. (CRC, B0, B1 and RESULT, which R180 leaves unspecified, are not spoken of.) -/
def Obligations.ResetStateReadsZero : Prop :=
  State.reset.engines.length = Config.extraEngines + 1 ∧ State.reset.pending = [] ∧ State.reset.reads = [] ∧
  State.reset.busAnswers = [] ∧
  ∀ e ∈ State.reset.engines, statusWord e = 0#32 ∧ e.ecmd = 0#32 ∧ e.phase = .idle ∧ e.mode = .std ∧ e.len = 0#2 ∧
    e.rv = false ∧ e.err = .none ∧ e.oh = false

/-- R182 (with R180's defined values): the reset of one engine completes, gives it R180's values whatever its state, an
error among them, and touches no other engine. -/
def Obligations.ResetTouchesOneEngine : Prop :=
  ∀ (s : State) (k : Nat) (e : Engine) (rest : List HostOp), s.engine? k = some e → s.pending = .reset k :: rest →
    ∃ t e', step s = .next t ∧ t.engine? k = some e' ∧
      e'.phase = .idle ∧ e'.mode = .std ∧ e'.len = 0#2 ∧ e'.rv = false ∧ e'.err = .none ∧ e'.oh = false ∧ e'.ecmd = 0#32 ∧
      statusWord e' = 0#32 ∧
      (∀ j, j ≠ k → t.engine? j = s.engine? j) ∧ t.engines.length = s.engines.length ∧
      t.pending = rest ∧ t.reads = s.reads ∧ t.sel = s.sel ∧ t.busLatch = s.busLatch ∧ t.busAnswers = s.busAnswers

/-- R181: after reset the first legal command is INIT; a FEED or FINAL records SEQ. -/
def Obligations.FirstCommandMustBeInit : Prop :=
  (∀ m : Mode, ∃ t e, step (State.reset.withFetchWord 32 (encode (.init m)).toNat) = .next t ∧ t.engine? 0 = some e ∧
    e.phase = .active ∧ e.mode = m ∧ e.err = .none) ∧
  (∀ b : Byte, ∃ t e, step (State.reset.withFetchWord 32 (encode (.feed b)).toNat) = .next t ∧ t.engine? 0 = some e ∧
    e.phase = .idle ∧ e.err = .seq ∧ e.ecmd = 0x80000000#32 ||| b.setWidth 32) ∧
  (∃ t e, step (State.reset.withFetchWord 32 0xC0000000) = .next t ∧ t.engine? 0 = some e ∧
    e.phase = .idle ∧ e.err = .seq ∧ e.ecmd = 0xC0000000#32)

/-! ## Transactions -/

/-- R142's induction, an inference of the spec's own, with R110's and R111's values: after INIT and the FEEDs of a key, the registers hold its walk, from any state of the engine. -/
def Obligations.FeedsTrackTheKey : Prop :=
  ∀ (s : State) (k : Nat) (m : Mode) (key : List Byte) (rest : List HostOp), s.Ready k →
    s.pending = cmdWrite k (.init m) :: (key.map fun b => cmdWrite k (.feed b)) ++ rest →
    ∃ t e, steps (key.length + 1) s = .next t ∧ t.engine? k = some e ∧ t.pending = rest ∧
      e.phase = .active ∧ e.mode = m ∧ e.rv = false ∧ e.err = .none ∧
      e.crc = key.foldl crcStep 0xFFFFFFFF#32 ∧ e.len.toNat = min key.length 3 ∧
      (∀ b, key[0]? = some b → e.b0 = b) ∧ (∀ b, key[1]? = some b → e.b1 = b)

/-- R140, R141, with the closing values of R142 (LEN, OH and the rest), which the spec marks as its own inference: a
transaction computes the function of its mode, from any state of an engine without error, and completes for every key; the
empty key gives 0x00000000 in STD. -/
def Obligations.TransactionComputesHash : Prop :=
  ∀ (s : State) (k : Nat) (m : Mode) (key : List Byte) (rest : List HostOp), s.Ready k →
    s.pending = transaction k m key ++ rest →
    ∃ t e, steps (key.length + 2) s = .next t ∧ t.engine? k = some e ∧ t.pending = rest ∧
      (m = .std → e.result = ~~~(key.foldl crcStep 0xFFFFFFFF#32) ∧ e.oh = false) ∧
      (m = .std → key = [] → e.result = 0x00000000#32) ∧
      (∀ b0 b1 v, m = .legacy → key = [b0, b1] → ovrLookup (b0 ++ b1) = some v → e.result = v ∧ e.oh = true) ∧
      (m = .legacy → (key.length ≠ 2 ∨ ∃ b0 b1, key = [b0, b1] ∧ ovrLookup (b0 ++ b1) = none) →
        e.result = ((~~~(key.foldl crcStep 0xFFFFFFFF#32)) >>> 16) &&& 0x7FFF#32 ∧ e.oh = false) ∧
      e.rv = true ∧ e.phase = .idle ∧ e.len.toNat = min key.length 3 ∧ e.mode = m ∧ e.err = .none

/-- R78: HASH.STD and HASH.LEGACY are n + 3 lines, and hand the host the value of the source's function. -/
def Obligations.HashCommandReturnsFunction : Prop :=
  ∀ (s : State) (k : Nat) (key : List Byte) (rest : List HostOp), s.Ready k →
    (∀ m, (hashCommand k m key).length = key.length + 3) ∧
    (s.pending = hashCommand k .std key ++ rest →
      ∃ t e, steps (key.length + 3) s = .next t ∧ t.pending = rest ∧ t.engine? k = some e ∧
        t.reads = s.reads ++ [{ engine := k, reg := .result, value := standardCrc32 key, source := e }]) ∧
    (s.pending = hashCommand k .legacy key ++ rest →
      ∃ t e, steps (key.length + 3) s = .next t ∧ t.pending = rest ∧ t.engine? k = some e ∧
        t.reads = s.reads ++ [{ engine := k, reg := .result, value := legacyShardHash key, source := e }])

/-- R146, an inference of the spec's own: a transaction's result does not depend on the engine it runs on nor on what that engine did before. -/
def Obligations.TransactionIndependentOfHistory : Prop :=
  ∀ (s s' t t' : State) (k k' : Nat) (m : Mode) (key : List Byte) (rest rest' : List HostOp) (e e' : Engine),
    s.Ready k → s'.Ready k' →
    s.pending = transaction k m key ++ rest → s'.pending = transaction k' m key ++ rest' →
    steps (key.length + 2) s = .next t → steps (key.length + 2) s' = .next t' →
    t.engine? k = some e → t'.engine? k' = some e' → e.result = e'.result ∧ e.oh = e'.oh ∧ statusWord e = statusWord e'

/-- R24: after a transaction LEN is min(n, 3), so LEN = 2 exactly for keys of length 2. -/
def Obligations.LengthClassTellsPairs : Prop :=
  ∀ (s t : State) (k : Nat) (m : Mode) (key : List Byte) (rest : List HostOp) (e : Engine), s.Ready k →
    s.pending = transaction k m key ++ rest → steps (key.length + 2) s = .next t → t.engine? k = some e →
    (e.len = 2#2 ↔ key.length = 2) ∧ (e.len = 3#2 ↔ 3 ≤ key.length)

/-- R143: for every code of the Override Set the LEGACY transaction gives the code's value, whatever the walk gave; for "us"
the generic path would have given 0x5A9D and the result is 0. -/
def Obligations.OverrideTakesPrecedence : Prop :=
  (∀ (s : State) (k : Nat) (b0 b1 : Byte) (v : Word) (rest : List HostOp), s.Ready k →
    ovrLookup (b0 ++ b1) = some v → s.pending = transaction k .legacy [b0, b1] ++ rest →
    ∃ t e, steps 4 s = .next t ∧ t.engine? k = some e ∧ e.result = v ∧ e.oh = true ∧ e.rv = true ∧ e.err = .none) ∧
  ((~~~(acc [0x75#8, 0x73#8])) >>> 16) &&& 0x7FFF#32 = 0x5A9D#32 ∧ ovrLookup (0x75#8 ++ 0x73#8) = some 0#32

/-- R144: for every two-byte key that is no code the LEGACY transaction gives the generic value, and it is no error. -/
def Obligations.UnmatchedPairFallsThrough : Prop :=
  ∀ (s : State) (k : Nat) (b0 b1 : Byte) (rest : List HostOp), s.Ready k →
    ovrLookup (b0 ++ b1) = none → s.pending = transaction k .legacy [b0, b1] ++ rest →
    ∃ t e, steps 4 s = .next t ∧ t.engine? k = some e ∧
      e.result = ((~~~(acc [b0, b1])) >>> 16) &&& 0x7FFF#32 ∧ e.oh = false ∧ e.rv = true ∧ e.err = .none

/-- R138, an inference of the spec's own: a valid LEGACY result off the override path lies in [0, 32767]; OH tells a host which path it was. -/
def Obligations.LegacyGenericRange : Prop :=
  ∀ (s t : State) (e : Engine), exec .final s = .next t → s.engine? s.sel = some e → e.err = .none → e.phase = .active →
    e.mode = .legacy → ∃ e', t.engine? s.sel = some e' ∧ (e'.oh = false → e'.result.toNat ≤ 32767) ∧
      (e'.oh = true → ovrLookup (e.b0 ++ e.b1) = some e'.result ∧ e.len = 2#2)

/-- R172: whatever commands the host writes to the engines and in whatever interleaving, each engine ends as it would have
with its own commands alone. -/
def Obligations.EnginesAreIndependent : Prop :=
  ∀ (s : State) (ops : List HostOp) (k : Nat), (∀ op ∈ ops, s.IsCommandWrite op) →
    ∃ t t', steps ops.length (s.withPending ops) = .next t ∧
      steps (ops.filter fun op => decide (opEngine op = some k)).length
        (s.withPending (ops.filter fun op => decide (opEngine op = some k))) = .next t' ∧
      t.engine? k = t'.engine? k

/-- R188, R160: every command the host has written is executed, one a step, whatever words they are. -/
def Obligations.PendingCommandsAreServed : Prop :=
  ∀ s : State, (∀ op ∈ s.pending, s.IsCommandWrite op) → ∃ t, steps s.pending.length s = .next t ∧ t.pending = []

/-! ## The invariant -/

/-- The invariant of Safety.lean holds at reset, with no access pending and with any. -/
def Obligations.ResetIsSafe : Prop :=
  ∀ ops : List HostOp, (State.reset.withPending ops).Inv

/-- Every step keeps the invariant: a valid RESULT is the hash of the key the engine walked, an open transaction holds the
walk of what it was fed, ERR and ECMD fit, and every value the host has read is what its register held in an engine that
meets the invariant. -/
def Obligations.StepKeepsInvariant : Prop :=
  ∀ s t : State, s.Inv → step s = .next t → t.Inv

/-- From a state that meets the invariant a served RESULT read appends the register's value, and that is the hash, in the
engine's mode, of the key whose walk the engine's registers hold (R25, R140, R141, R145); and after any step, a bus access
among them, every RESULT read on record returned the hash of the key its engine had walked, and no STATUS read on record
shows error code 3 (R161). -/
def Obligations.ServedResultIsWalkedHash : Prop :=
  (∀ (s t : State) (k : Nat) (e : Engine) (rest : List HostOp), s.Inv → s.pending = .access (.read k 2) :: rest →
    s.engine? k = some e → step s = .next t →
    t.reads = s.reads ++ [{ engine := k, reg := .result, value := e.result, source := e }] ∧ t.engines = s.engines ∧
    ∃ key, e.Walked key ∧ e.result = hashOf e.mode key ∧ e.oh = overrideHit e.mode key) ∧
  ∀ s t : State, s.Inv → step s = .next t → ∀ r ∈ t.reads,
    (r.reg = .result → r.source.rv = true ∧ r.value = r.source.result ∧
      ∃ key, r.source.Walked key ∧ r.value = hashOf r.source.mode key ∧ r.source.oh = overrideHit r.source.mode key) ∧
    (r.reg = .status → r.value.extractLsb' 5 2 ≠ 3#2 ∧ r.value.extractLsb' 8 24 = 0#24)
end

