-- ==== Sys2Proof/Laws/State.lean ====
section
/-! SUPPORT. What each update of the state and of an engine's registers leaves and changes: one lemma per field per update. -/

namespace Sys2Proof.Machine

variable (s : State) (e : Engine) (k j : Nat) (rest : List HostOp)

@[simp] theorem setEngine_sel : (s.setEngine k e).sel = s.sel := rfl
@[simp] theorem setEngine_pending : (s.setEngine k e).pending = s.pending := rfl
@[simp] theorem setEngine_reads : (s.setEngine k e).reads = s.reads := rfl
@[simp] theorem setEngine_freeCtr : (s.setEngine k e).freeCtr = s.freeCtr := rfl
@[simp] theorem setEngine_engines : (s.setEngine k e).engines = s.engines.set k e := rfl
@[simp] theorem setEngine_busLatch : (s.setEngine k e).busLatch = s.busLatch := rfl
@[simp] theorem setEngine_busAnswers : (s.setEngine k e).busAnswers = s.busAnswers := rfl

@[simp] theorem select_sel : (s.select k).sel = k := rfl
@[simp] theorem select_engines : (s.select k).engines = s.engines := rfl
@[simp] theorem select_pending : (s.select k).pending = s.pending := rfl
@[simp] theorem select_reads : (s.select k).reads = s.reads := rfl
@[simp] theorem select_freeCtr : (s.select k).freeCtr = s.freeCtr := rfl
@[simp] theorem select_busLatch : (s.select k).busLatch = s.busLatch := rfl
@[simp] theorem select_busAnswers : (s.select k).busAnswers = s.busAnswers := rfl

@[simp] theorem withPending_pending : (s.withPending rest).pending = rest := rfl
@[simp] theorem withPending_engines : (s.withPending rest).engines = s.engines := rfl
@[simp] theorem withPending_sel : (s.withPending rest).sel = s.sel := rfl
@[simp] theorem withPending_reads : (s.withPending rest).reads = s.reads := rfl
@[simp] theorem withPending_freeCtr : (s.withPending rest).freeCtr = s.freeCtr := rfl
@[simp] theorem withPending_busLatch : (s.withPending rest).busLatch = s.busLatch := rfl
@[simp] theorem withPending_busAnswers : (s.withPending rest).busAnswers = s.busAnswers := rfl

section
variable (r : HostRead) (b : BusAccess) (latch bytes : List Byte)

@[simp] theorem recordRead_engines : (s.recordRead r).engines = s.engines := rfl
@[simp] theorem recordRead_sel : (s.recordRead r).sel = s.sel := rfl
@[simp] theorem recordRead_pending : (s.recordRead r).pending = s.pending := rfl
@[simp] theorem recordRead_reads : (s.recordRead r).reads = s.reads ++ [r] := rfl
@[simp] theorem recordRead_busLatch : (s.recordRead r).busLatch = s.busLatch := rfl
@[simp] theorem recordRead_busAnswers : (s.recordRead r).busAnswers = s.busAnswers := rfl
@[simp] theorem recordRead_freeCtr : (s.recordRead r).freeCtr = s.freeCtr := rfl
@[simp] theorem recordRead_engine? : (s.recordRead r).engine? j = s.engine? j := rfl

@[simp] theorem answerBus_engines : (s.answerBus b latch bytes).engines = s.engines := rfl
@[simp] theorem answerBus_sel : (s.answerBus b latch bytes).sel = s.sel := rfl
@[simp] theorem answerBus_pending : (s.answerBus b latch bytes).pending = s.pending := rfl
@[simp] theorem answerBus_reads : (s.answerBus b latch bytes).reads = s.reads := rfl
@[simp] theorem answerBus_busLatch : (s.answerBus b latch bytes).busLatch = latch := rfl
@[simp] theorem answerBus_busAnswers :
    (s.answerBus b latch bytes).busAnswers = s.busAnswers ++ [{ access := b, bytes := bytes }] := rfl
@[simp] theorem answerBus_freeCtr : (s.answerBus b latch bytes).freeCtr = s.freeCtr := rfl
@[simp] theorem answerBus_engine? : (s.answerBus b latch bytes).engine? j = s.engine? j := rfl
end

@[simp] theorem select_engine? : (s.select k).engine? j = s.engine? j := rfl
@[simp] theorem withPending_engine? : (s.withPending rest).engine? j = s.engine? j := rfl

/-- Writing an existing engine's registers and reading them back. -/
theorem setEngine_engine?_self (h : k < s.engines.length) : (s.setEngine k e).engine? k = some e := by
  simp [State.engine?, h]

/-- Writing one engine leaves every other one. -/
theorem setEngine_engine?_of_ne (h : k ≠ j) : (s.setEngine k e).engine? j = s.engine? j := by
  simp [State.engine?, h]

/-- An engine exists exactly below N_ENGINES. -/
theorem engine?_eq_some_lt {s : State} {k : Nat} {e : Engine} (h : s.engine? k = some e) : k < s.engines.length :=
  (List.getElem?_eq_some_iff.mp h).1

/-- An engine below N_ENGINES exists. -/
theorem exists_engine? {s : State} {k : Nat} (h : k < s.engines.length) : ∃ e, s.engine? k = some e :=
  ⟨s.engines[k], List.getElem?_eq_getElem h⟩

/-- A registered engine is a member of the list of engines. -/
theorem mem_of_engine? {s : State} {k : Nat} {e : Engine} (h : s.engine? k = some e) : e ∈ s.engines :=
  List.mem_of_getElem? h

end Sys2Proof.Machine
end

