-- ==== Sys2Proof/Laws/Ops.lean ====
section
/-! SUPPORT. What each shared operation does, said once: the register effects of the commands, the quiescence check, one
command on the selected engine, the mux and the walk. -/

namespace Sys2Proof.Machine

/-! ## Error entry and the quiescence check -/

section
variable (c : ErrCode) (w : Word) (e : Engine)

@[simp] theorem raiseError_err : (raiseError c w e).err = c := rfl
@[simp] theorem raiseError_ecmd : (raiseError c w e).ecmd = w := rfl
@[simp] theorem raiseError_phase : (raiseError c w e).phase = e.phase := rfl
@[simp] theorem raiseError_mode : (raiseError c w e).mode = e.mode := rfl
@[simp] theorem raiseError_len : (raiseError c w e).len = e.len := rfl
@[simp] theorem raiseError_rv : (raiseError c w e).rv = e.rv := rfl
@[simp] theorem raiseError_oh : (raiseError c w e).oh = e.oh := rfl
@[simp] theorem raiseError_crc : (raiseError c w e).crc = e.crc := rfl
@[simp] theorem raiseError_b0 : (raiseError c w e).b0 = e.b0 := rfl
@[simp] theorem raiseError_b1 : (raiseError c w e).b1 = e.b1 := rfl
@[simp] theorem raiseError_result : (raiseError c w e).result = e.result := rfl
end

/-- With no error recorded a command has its effect. -/
theorem unlessQuiescent_of_none {f : Engine → Engine} {e : Engine} (h : e.err = .none) : unlessQuiescent f e = f e := by
  simp [unlessQuiescent, h]

/-- With an error recorded a command has none (R164). -/
theorem unlessQuiescent_of_err {f : Engine → Engine} {e : Engine} (h : e.err ≠ .none) : unlessQuiescent f e = e := by
  simp [unlessQuiescent, h]

/-! ## One command on the selected engine -/

/-- A command on an existing engine answers a next state. -/
theorem onSelected_of_engine? {s : State} {e : Engine} (f : Engine → Engine) (h : s.engine? s.sel = some e) :
    onSelected f s = .next (s.setEngine s.sel (unlessQuiescent f e)) := by
  simp [onSelected, h]

/-- A command answers a next state in one way only: the selected engine exists and its registers alone are written. -/
theorem onSelected_next {s t : State} {f : Engine → Engine} (h : onSelected f s = .next t) :
    ∃ e, s.engine? s.sel = some e ∧ t = s.setEngine s.sel (unlessQuiescent f e) := by
  unfold onSelected at h
  split at h
  · rename_i e he
    exact ⟨e, he, by simpa using h.symm⟩
  · simp at h

/-- The register effect of a command. -/
def effect : Instr → Engine → Engine
  | .init m => initEngine m
  | .feed b => feedEngine b
  | .final  => finalEngine

/-- Every command is its register effect on the selected engine. -/
theorem exec_eq_onSelected (i : Instr) (s : State) : exec i s = onSelected (effect i) s := by
  cases i <;> rfl

/-! ## The commands' register effects -/

section
variable (m : Mode) (b : Byte) (e : Engine)

@[simp] theorem initEngine_phase : (initEngine m e).phase = .active := rfl
@[simp] theorem initEngine_mode : (initEngine m e).mode = m := rfl
@[simp] theorem initEngine_len : (initEngine m e).len = 0#2 := rfl
@[simp] theorem initEngine_rv : (initEngine m e).rv = false := rfl
@[simp] theorem initEngine_err : (initEngine m e).err = e.err := rfl
@[simp] theorem initEngine_oh : (initEngine m e).oh = false := rfl
@[simp] theorem initEngine_crc : (initEngine m e).crc = crcInit := rfl
@[simp] theorem initEngine_b0 : (initEngine m e).b0 = e.b0 := rfl
@[simp] theorem initEngine_b1 : (initEngine m e).b1 = e.b1 := rfl
@[simp] theorem initEngine_result : (initEngine m e).result = e.result := rfl
@[simp] theorem initEngine_ecmd : (initEngine m e).ecmd = e.ecmd := rfl

/-- FEED while IDLE is the SEQ error (R111). -/
theorem feedEngine_of_idle (h : e.phase = .idle) : feedEngine b e = raiseError .seq (encode (.feed b)) e := by
  simp [feedEngine, h]

/-- FEED while ACTIVE walks the byte (R111). -/
theorem feedEngine_of_active (h : e.phase = .active) :
    feedEngine b e = { e with
      crc := crcStep e.crc b
      b0  := if e.len = 0#2 then b else e.b0
      b1  := if e.len = 1#2 then b else e.b1
      len := lenNext e.len } := by
  simp [feedEngine, h]

/-- FINAL while IDLE is the SEQ error (R137). -/
theorem finalEngine_of_idle (h : e.phase = .idle) : finalEngine e = raiseError .seq (encode .final) e := by
  simp [finalEngine, h]

/-- FINAL while ACTIVE writes the mux's value (R137). -/
theorem finalEngine_of_active (h : e.phase = .active) :
    finalEngine e = { e with
      result := (outMux e.mode e.len e.b0 e.b1 e.crc).1
      oh     := (outMux e.mode e.len e.b0 e.b1 e.crc).2
      rv     := true
      phase  := .idle } := by
  simp [finalEngine, h]
end

/-! ## The walk and the length class -/

@[simp] theorem acc_nil : acc [] = crcInit := rfl

/-- One more byte is one more step. -/
theorem acc_concat (key : List Byte) (b : Byte) : acc (key ++ [b]) = crcStep (acc key) b := by simp [acc]

@[simp] theorem lenClass_zero : lenClass 0 = 0#2 := rfl

/-- The length class steps as LEN does (R24). -/
theorem lenClass_succ (n : Nat) : lenClass (n + 1) = lenNext (lenClass n) := by
  match n with
  | 0 => decide
  | 1 => decide
  | 2 => decide
  | n + 3 => simp [lenClass, lenNext]

/-- LEN = 0 is no byte fed. -/
theorem lenClass_eq_zero {n : Nat} : lenClass n = 0#2 ↔ n = 0 := by
  match n with
  | 0 => decide
  | 1 => decide
  | 2 => decide
  | n + 3 => simp [lenClass]

/-- LEN = 1 is exactly one byte fed. -/
theorem lenClass_eq_one {n : Nat} : lenClass n = 1#2 ↔ n = 1 := by
  match n with
  | 0 => decide
  | 1 => decide
  | 2 => decide
  | n + 3 => simp [lenClass]

/-- LEN = 2 is exactly two bytes fed. -/
theorem lenClass_eq_two {n : Nat} : lenClass n = 2#2 ↔ n = 2 := by
  match n with
  | 0 => decide
  | 1 => decide
  | 2 => decide
  | n + 3 => simp [lenClass]

/-- A round of the table procedure respects exclusive or. -/
theorem crcBit_xor (a b : Word) : crcBit (a ^^^ b) = crcBit a ^^^ crcBit b := by
  unfold crcBit
  simp only [BitVec.getLsbD_xor]
  cases a.getLsbD 0 <;> cases b.getLsbD 0 <;> simp [BitVec.ushiftRight_xor_distrib]
  · ac_rfl
  · ac_rfl
  · rw [show a >>> 1 ^^^ poly ^^^ (b >>> 1 ^^^ poly) = a >>> 1 ^^^ b >>> 1 ^^^ (poly ^^^ poly) by ac_rfl]
    simp

/-- So do n rounds. -/
theorem crcBits_xor (n : Nat) (a b : Word) : crcBits n (a ^^^ b) = crcBits n a ^^^ crcBits n b := by
  induction n generalizing a b with
  | zero => rfl
  | succ n ih => simp only [crcBits, crcBit_xor, ih]

/-! ## The output mux -/

/-- STD never consults the matcher (R135). -/
@[simp] theorem outMuxWith_std (f : BitVec 16 → Option Word) (len : BitVec 2) (b0 b1 : Byte) (c : Word) :
    outMuxWith f .std len b0 b1 c = (stdFinal c, false) := rfl

/-- LEGACY with another length than 2 takes the generic path (R135). -/
theorem outMuxWith_generic (f : BitVec 16 → Option Word) {len : BitVec 2} (b0 b1 : Byte) (c : Word) (h : len ≠ 2#2) :
    outMuxWith f .legacy len b0 b1 c = (legGenFinal c, false) := by
  simp [outMuxWith, h]

/-- LEGACY with length 2 follows the matcher (R136). -/
theorem outMuxWith_pair (f : BitVec 16 → Option Word) (b0 b1 : Byte) (c : Word) :
    outMuxWith f .legacy 2#2 b0 b1 c =
      match f (ovrKey b0 b1) with
      | some v => (v, true)
      | none   => (legGenFinal c, false) := rfl

/-- A key of another length than 2 has no override value (R135). -/
theorem overrideOf_eq_none {key : List Byte} (h : key.length ≠ 2) : overrideOf key = none := by
  match key with
  | [] => rfl
  | [_] => rfl
  | [_, _] => simp at h
  | _ :: _ :: _ :: _ => rfl

/-! ## Assembler text -/

/-- A hexadecimal digit stands for its value, in either case. -/
theorem hexDigit_digitChar (h : Fin 16) :
    hexDigit (Nat.digitChar h) = some (BitVec.ofNat 8 h) ∧ hexDigit (Nat.digitChar h).toUpper = some (BitVec.ofNat 8 h) := by
  revert h
  decide

end Sys2Proof.Machine
end

