-- ==== Sys2Proof/Laws/PerInstr.lean ====
section
/-! SUPPORT. Per-instruction facts about the syntax: the word of every command has well-formed fields (R71). -/

/-- The word of the command has well-formed fields (R71, R76). -/
def Sys2Proof.Laws.EncodingWellFormed.Statement (i : Sys2Proof.Instr) : Prop :=
  (Sys2Proof.fieldsOf (Sys2Proof.encode i)).wellFormed = true

theorem Sys2Proof.Laws.EncodingWellFormed.init (m : Sys2Proof.Mode) :
    Sys2Proof.Laws.EncodingWellFormed.Statement (.init m) := by
  unfold Sys2Proof.Laws.EncodingWellFormed.Statement
  cases m <;> decide

theorem Sys2Proof.Laws.EncodingWellFormed.feed (b : Sys2Proof.Byte) :
    Sys2Proof.Laws.EncodingWellFormed.Statement (.feed b) := by
  revert b
  unfold Sys2Proof.Laws.EncodingWellFormed.Statement
  decide +kernel

theorem Sys2Proof.Laws.EncodingWellFormed.final : Sys2Proof.Laws.EncodingWellFormed.Statement .final := by
  unfold Sys2Proof.Laws.EncodingWellFormed.Statement
  decide
end

