-- ==== Sys2Proof/Laws/Step.lean ====
section
/-! SUPPORT. What a step can do, said once: serving a command write, and the cases of a served access. -/

namespace Sys2Proof.Machine

@[simp] theorem regOfIndex_indexOfReg (r : Reg) : regOfIndex (indexOfReg r) = some r := by cases r <;> rfl

@[simp] theorem steps_zero (s : State) : steps 0 s = .next s := rfl

/-- A run of n + 1 steps is a step and a run of n. -/
theorem steps_succ (n : Nat) (s : State) :
    steps (n + 1) s = match step s with
      | .next t => steps n t
      | .fault f => .fault f
      | .refused r => .refused r := rfl

/-- The host's run of n + 1 steps is a step and a run of n. -/
theorem run_succ (M : Host.Core) (n : Nat) (s : M.State) :
    M.run (n + 1) s = match M.step s with
      | .next t => M.run n t
      | .fault f => .fault f
      | .refused r => .refused r := rfl

/-- Runs are the host's own runs of the machine. -/
theorem steps_eq_run (n : Nat) (s : State) : steps n s = Host.Core.run Sys2Proof.core n s := by
  induction n generalizing s with
  | zero => rfl
  | succ n ih =>
    have hr : Host.Core.run Sys2Proof.core (n + 1) s = _ := run_succ Sys2Proof.core n s
    rw [steps_succ]
    cases hs : step s with
    | next t =>
      have hc : Sys2Proof.core.step s = .next t := hs
      rw [hc] at hr
      exact (ih t).trans hr.symm
    | fault f =>
      have hc : Sys2Proof.core.step s = .fault f := hs
      rw [hc] at hr
      exact hr.symm
    | refused r =>
      have hc : Sys2Proof.core.step s = .refused r := hs
      rw [hc] at hr
      exact hr.symm

/-- A step that answers a next state leaves the rest of the run. -/
theorem steps_succ_of_next {n : Nat} {s t : State} (h : step s = .next t) : steps (n + 1) s = steps n t := by
  rw [steps_succ, h]

/-- Runs add up. -/
theorem steps_add {m n : Nat} {s t : State} (h : steps m s = .next t) : steps (m + n) s = steps n t := by
  induction m generalizing s with
  | zero => cases h; simp
  | succ m ih =>
    rw [Nat.succ_add, steps_succ]
    rw [steps_succ] at h
    split at h
    · exact ih h
    · simp at h
    · simp at h

/-- A step serves the oldest pending access. -/
theorem step_cons {s : State} {op : HostOp} {rest : List HostOp} (h : s.pending = op :: rest) :
    step s = serve op (s.withPending rest) := by
  simp [step, h]

/-- A write of a word to CMD executes it on that engine. -/
theorem step_cmdWord {s : State} {k : Nat} {w : Word} {rest : List HostOp}
    (h : s.pending = .access (.write k (indexOfReg .cmd) w) :: rest) :
    step s = runCommand w ((s.withPending rest).select k) := by
  rw [step_cons h]
  rfl

/-- The register effect of a command word, legal or not (R163). -/
def wordEffect (w : Word) : Engine → Engine :=
  match decode w with
  | .legal i   => effect i
  | .illegal _ => raiseError .illegal w

/-- Execute(w) is its register effect behind the quiescence check (R163). -/
theorem runCommand_eq_onSelected (w : Word) (s : State) : runCommand w s = onSelected (wordEffect w) s := by
  cases h : decode w with
  | legal i => simp only [runCommand, wordEffect, h, exec_eq_onSelected]
  | illegal why => simp only [runCommand, wordEffect, h, execIllegal]

@[simp] theorem andThen_next {α β : Type} (a : α) (f : α → Host.Outcome β Fault Refusal) : andThen (.next a) f = f a := rfl

/-- A sequence answers a next state only where both its parts do. -/
theorem andThen_eq_next {α β : Type} {o : Host.Outcome α Fault Refusal} {f : α → Host.Outcome β Fault Refusal} {b : β}
    (h : andThen o f = .next b) : ∃ a, o = .next a ∧ f a = .next b := by
  cases o with
  | next a => exact ⟨a, rfl, h⟩
  | fault r => cases h
  | refused r => cases h

/-- An index that names a register is that register's index. -/
theorem eq_indexOfReg {i : Nat} {r : Reg} (h : regOfIndex i = some r) : i = indexOfReg r := by
  unfold regOfIndex at h
  split at h <;> cases h <;> rfl

/-- A read of a register that has a value answers it. -/
theorem readRegister_of_engine? {s : State} {k : Nat} {e : Engine} {r : Reg} {v : Word} (he : s.engine? k = some e)
    (hv : readReg r e = some v) :
    readRegister k (indexOfReg r) s = .next { engine := k, reg := r, value := v, source := e } := by
  simp [readRegister, he, hv]

/-- What an answered read is: the value of an existing engine's register. -/
theorem readRegister_next {s : State} {k i : Nat} {r : HostRead} (h : readRegister k i s = .next r) :
    i = indexOfReg r.reg ∧ r.engine = k ∧ s.engine? k = some r.source ∧ readReg r.reg r.source = some r.value := by
  unfold readRegister at h
  split at h
  · cases h
  · rename_i g hg
    split at h
    · cases h
    · rename_i e he
      split at h
      · rename_i v hv
        cases h
        exact ⟨eq_indexOfReg hg, rfl, he, hv⟩
      · cases h

/-- What serving a register access can do, if it answers a next state: run a command word on an existing engine, ignore a
write, or record what a read answered. -/
theorem serveAccess_next {s t : State} {a : Access} (h : serveAccess a s = .next t) :
    (∃ k w e, a = .write k (indexOfReg .cmd) w ∧ s.engine? k = some e ∧
      t = (s.select k).setEngine k (unlessQuiescent (wordEffect w) e)) ∨
    (∃ k r w, a = .write k (indexOfReg r) w ∧ r ≠ .cmd ∧ t = s) ∨
    (∃ k i r, a = .read k i ∧ readRegister k i s = .next r ∧ t = s.recordRead r) := by
  cases a with
  | write k i w =>
    simp only [serveAccess] at h
    split at h
    · rename_i r hr
      have hi := eq_indexOfReg hr
      subst hi
      have ignored (h : serveIgnoredWrite k s = .next t) : t = s := by
        unfold serveIgnoredWrite at h
        split at h <;> simp_all
      cases r with
      | cmd =>
        simp only [serveWrite, runCommand_eq_onSelected] at h
        obtain ⟨e, he, rfl⟩ := onSelected_next h
        exact .inl ⟨k, w, e, rfl, he, rfl⟩
      | status => exact .inr (.inl ⟨k, .status, w, rfl, by simp, ignored h⟩)
      | result => exact .inr (.inl ⟨k, .result, w, rfl, by simp, ignored h⟩)
      | ecmd => exact .inr (.inl ⟨k, .ecmd, w, rfl, by simp, ignored h⟩)
    · simp at h
  | read k i =>
    obtain ⟨r, hr, ht⟩ := andThen_eq_next h
    exact .inr (.inr ⟨k, i, r, rfl, hr, by simpa using ht.symm⟩)

/-- Whatever every register access and the bus's own bookkeeping keep, a whole bus access keeps: the one induction over the
plan that HOST_BUS makes of it. -/
theorem servePlan_keeps {P : State → Prop} (access : ∀ a s t, P s → serveAccess a s = .next t → P t)
    (answer : ∀ s b latch bytes, P s → P (s.answerBus b latch bytes)) {b : BusAccess} {p : BusPlan} {s t : State}
    (hs : P s) (h : servePlan b p s = .next t) : P t := by
  induction p generalizing s with
  | done latch bytes =>
    simp only [servePlan] at h
    cases h
    exact answer _ _ _ _ hs
  | write k i w p ih =>
    obtain ⟨u, hu, ht⟩ := andThen_eq_next h
    exact ih (access _ _ _ hs hu) ht
  | read k i p ih =>
    obtain ⟨r, hr, ht⟩ := andThen_eq_next h
    exact ih _ (access (.read k i) _ _ hs (by simp [serveAccess, hr])) ht

/-- What a host reset does, if it answers a next state: the engine exists and gets R180's values. -/
theorem serveReset_next {s t : State} {k : Nat} (h : serveReset k s = .next t) :
    ∃ e c b0 b1 r, s.engine? k = some e ∧
      t = { s with engines := s.engines.set k (Engine.afterReset c b0 b1 r), freeCtr := s.freeCtr + 1 } := by
  unfold serveReset at h
  split at h
  · simp at h
  · rename_i e he
    exact ⟨e, _, _, _, _, he, by simpa [resetEngine] using h.symm⟩

/-- Everything a step can do, if it answers a next state: nothing is pending and nothing changes; or the oldest access is
served, as a register access, as the plan HOST_BUS makes of a bus access, or as a reset. -/
theorem step_next {s t : State} (h : step s = .next t) :
    (s.pending = [] ∧ t = s) ∨
    (∃ a rest, s.pending = .access a :: rest ∧ serveAccess a (s.withPending rest) = .next t) ∨
    (∃ b rest p, s.pending = .bus b :: rest ∧ Config.hostBus s.busLatch b = some p ∧
      servePlan b p (s.withPending rest) = .next t) ∨
    (∃ k rest, s.pending = .reset k :: rest ∧ serveReset k (s.withPending rest) = .next t) := by
  unfold step at h
  split at h
  · rename_i hp
    exact .inl ⟨hp, by simpa using h.symm⟩
  · rename_i op rest hp
    cases op with
    | access a => exact .inr (.inl ⟨a, rest, hp, h⟩)
    | bus b =>
      simp only [serve] at h
      split at h
      · rename_i p hb
        exact .inr (.inr (.inl ⟨b, rest, p, hp, hb, h⟩))
      · simp at h
    | reset k => exact .inr (.inr (.inr ⟨k, rest, hp, h⟩))

end Sys2Proof.Machine
end

