-- ==== Sys2Proof/Tests/Slice0.lean ====
section
/-! SUPPORT. The model's own tests: expected values are transcribed from spec/ (the rule or vector is named), never taken
from the model. Then, for every statement with hypotheses, a named witness that meets them together. -/

namespace Sys2Proof.Machine.Tests

/-! ## Small engines and states -/

/-- An engine after reset. -/
def idleEngine : Engine := Engine.afterReset 0#32 0#8 0#8 0#32

/-- An engine in an open transaction with these walk registers. -/
def openEngine (m : Mode) (crc : Word) (len : BitVec 2) (b0 b1 : Byte) : Engine :=
  { idleEngine with phase := .active, mode := m, crc := crc, len := len, b0 := b0, b1 := b1 }

/-- An engine just after INIT. -/
def freshEngine (m : Mode) : Engine := openEngine m 0xFFFFFFFF#32 0#2 0#8 0#8

/-- An engine with a valid result. -/
def doneEngine : Engine := { idleEngine with rv := true, result := 0x12345678#32, b0 := 0x61#8 }

/-- An engine with an error recorded (V56). -/
def erroredEngine : Engine := { idleEngine with err := .seq, ecmd := 0xC0000000#32 }

/-- One engine, and the host's pending accesses. -/
def oneEngine (e : Engine) (ops : List HostOp) : State :=
  { engines := [e], sel := 0, pending := ops, reads := [], busLatch := [], busAnswers := [], freeCtr := 0 }

/-- Two engines, and the host's pending accesses. -/
def twoEngines (e e' : Engine) (ops : List HostOp) : State :=
  { engines := [e, e'], sel := 0, pending := ops, reads := [], busLatch := [], busAnswers := [], freeCtr := 0 }

/-- A look at engine 0 after a next state. -/
def look {α : Type} (f : Engine → α) : Host.Outcome State Fault Refusal → Option α
  | .next t => (t.engine? 0).map f
  | _       => none

/-- The values the host has read, after a next state. -/
def lookReads : Host.Outcome State Fault Refusal → Option (List Word)
  | .next t => some (t.reads.map HostRead.value)
  | _       => none

/-! ## Well-formedness: an ill-formed term for each check, refused -/

theorem test_wf_refuses_op_zero : Fields.opLegal ⟨0#2, 0#21, 0#1, 0#8⟩ = false := by decide
theorem test_wf_refuses_reserved : Fields.rsvLegal ⟨1#2, 1#21, 0#1, 0#8⟩ = false := by decide
theorem test_wf_refuses_mode_in_feed : Fields.modeLegal ⟨2#2, 0#21, 1#1, 0#8⟩ = false := by decide
theorem test_wf_refuses_byte_in_init : Fields.byteLegal ⟨1#2, 0#21, 0#1, 1#8⟩ = false := by decide
theorem test_wf_refuses_whole :
    Fields.wellFormed ⟨0#2, 0#21, 0#1, 0#8⟩ = false ∧ Fields.wellFormed ⟨3#2, 0#21, 1#1, 0#8⟩ = false ∧
    Fields.wellFormed ⟨3#2, 0#21, 0#1, 1#8⟩ = false ∧ Fields.wellFormed ⟨2#2, 0x100000#21, 0#1, 0#8⟩ = false := by decide

/-! ## Decoding: words written out field by field, OP, RSV, M, BYTE (R71, R74) -/

theorem test_decode_init_std : decode (0b01#2 ++ 0#21 ++ 0b0#1 ++ 0b00000000#8) = .legal (.init .std) := by decide
theorem test_decode_init_legacy : decode (0b01#2 ++ 0#21 ++ 0b1#1 ++ 0b00000000#8) = .legal (.init .legacy) := by decide
theorem test_decode_feed : decode (0b10#2 ++ 0#21 ++ 0b0#1 ++ 0b01110101#8) = .legal (.feed 0x75#8) := by decide
theorem test_decode_final : decode (0b11#2 ++ 0#21 ++ 0b0#1 ++ 0b00000000#8) = .legal .final := by decide

/-- V50 to V54 and V58: words that are no command. -/
theorem test_decode_illegal :
    decode 0x00000000#32 = .illegal .opZero ∧ decode 0xE0000000#32 = .illegal .reservedBits ∧
    decode 0x40000200#32 = .illegal .reservedBits ∧ decode 0x40000001#32 = .illegal .byteField ∧
    decode 0x80000100#32 = .illegal .modeBit ∧ decode 0xC0000001#32 = .illegal .byteField := by decide

/-- The interface's numbering: bit 0 least significant. -/
theorem test_table_word : decodeTableWord 32 0x40000100 = some (.init .legacy) ∧ decodeTableWord 32 0x40000001 = none := by
  decide

/-- R77: FEED's two spellings at the ends of their ranges, and lines that are none. -/
theorem test_asm_lines :
    asmLine ['F', 'E', 'E', 'D', ' ', '0', 'x', 'F', 'f'] = some (.command (.feed 0xFF#8)) ∧
    asmLine ['F', 'E', 'E', 'D', ' ', '\'', '1', '\''] = some (.command (.feed 0x31#8)) ∧
    asmLine ['R', 'D', ' ', 'C', 'M', 'D'] = none ∧ asmLine ['F', 'E', 'E', 'D', ' ', '0', 'x', 'G', '0'] = none ∧
    asmLine ['N', 'O', 'P'] = none := by decide

/-- R77: the three reads. -/
theorem test_asm_reads :
    asmLine ['R', 'D', ' ', 'S', 'T', 'A', 'T', 'U', 'S'] = some .rdStatus ∧
    asmLine ['R', 'D', ' ', 'R', 'E', 'S', 'U', 'L', 'T'] = some .rdResult ∧
    asmLine ['R', 'D', ' ', 'E', 'C', 'M', 'D'] = some .rdEcmd := by decide

/-! ## The walk and the finalisations -/

/-- V10 to V14. -/
theorem test_table_read :
    tableRead 0x00#8 = 0x00000000#32 ∧ tableRead 0x01#8 = 0x77073096#32 ∧ tableRead 0x80#8 = 0xEDB88320#32 ∧
    tableRead 0xFF#8 = 0x2D02EF8D#32 ∧ tableRead 0xCE#8 = 0x7CDCEFB7#32 := by decide +kernel

/-- V18 to V21. -/
theorem test_walk_step :
    crcStep 0xFFFFFFFF#32 0xFF#8 = 0x00FFFFFF#32 ∧ crcStep 0#32 0#8 = 0#32 ∧ crcStep 0#32 0x80#8 = 0xEDB88320#32 ∧
    crcStep 0xFFFFFFFF#32 0#8 = 0x2DFD1072#32 := by decide +kernel

/-- V24, V27, V25: STD. -/
theorem test_standard_crc :
    standardCrc32 [0x61#8, 0x62#8, 0x63#8] = 0x352441C2#32 ∧ standardCrc32 [0#8] = 0xD202EF8D#32 ∧
    standardCrc32 [0x68#8, 0x65#8, 0x6C#8, 0x6C#8, 0x6F#8] = 0x3610A686#32 := by decide +kernel

/-- V35, V36, V37: a prefix of a code and a key that begins with one do not match. -/
theorem test_legacy_hash :
    legacyShardHash [0x75#8] = 0x726D#32 ∧ legacyShardHash [0x61#8, 0x62#8, 0x63#8] = 0x3524#32 ∧
    legacyShardHash [0x75#8, 0x73#8, 0x61#8] = 0x13DC#32 := by decide +kernel

/-- V44, V45, V46, with their premise made true by a matcher of the four given entries only. -/
theorem test_unmatched_pairs :
    let four : BitVec 16 → Option Word := fun k =>
      if k = 0x7573#16 then some 0#32 else if k = 0x6672#16 then some 1#32
      else if k = 0x6272#16 then some 2#32 else if k = 0x696E#16 then some 6#32 else none
    let generic (b0 b1 : Byte) : Word × Bool := outMuxWith four .legacy 2#2 b0 b1 (acc [b0, b1])
    generic 0x7A#8 0x7A#8 = (0x24D9#32, false) ∧ generic 0x55#8 0x53#8 = (0x7477#32, false) ∧
    generic 0x73#8 0x75#8 = (0x65A4#32, false) ∧ generic 0x75#8 0x73#8 = (0#32, true) := by decide +kernel

/-! ## The commands -/

/-- V61: STATUS after INIT LEGACY. -/
theorem test_init_status : look statusWord (exec (.init .legacy) (oneEngine idleEngine [])) = some 0x00000003#32 := by decide

/-- R110: INIT clears RV and keeps RESULT and B0. -/
theorem test_init_keeps :
    look (fun e => (e.rv, e.result, e.b0)) (exec (.init .std) (oneEngine doneEngine [])) =
      some (false, 0x12345678#32, 0x61#8) := by decide

/-- R111's example: FEED '1' after INIT STD. -/
theorem test_feed_first :
    look (fun e => (e.crc, e.b0, e.len)) (exec (.feed 0x31#8) (oneEngine (freshEngine .std) [])) =
      some (0x7C231048#32, 0x31#8, 1#2) := by decide +kernel

/-- V15, last row: from LEN = 3 a FEED keeps LEN, B0 and B1 and still walks. -/
theorem test_feed_saturated :
    look (fun e => (e.crc, e.b0, e.b1, e.len))
      (exec (.feed 0x39#8) (oneEngine (openEngine .std 0x651F2550#32 3#2 0x31#8 0x32#8) [])) =
      some (0x340BC6D9#32, 0x31#8, 0x32#8, 3#2) := by decide +kernel

/-- R137's example: FINAL after STD "123456789". -/
theorem test_final_std :
    look (fun e => (e.result, statusWord e)) (exec .final (oneEngine (openEngine .std 0x340BC6D9#32 3#2 0x31#8 0x32#8) [])) =
      some (0xCBF43926#32, 0x0000001C#32) := by decide

/-- P2: FINAL after LEGACY "us" takes the override. -/
theorem test_final_override :
    look (fun e => (e.result, e.crc, statusWord e))
      (exec .final (oneEngine (openEngine .legacy 0x25624035#32 2#2 0x75#8 0x73#8) [])) =
      some (0#32, 0x25624035#32, 0x0000009A#32) := by decide

/-! ## Serving the host -/

/-- V54: FEED with M = 1 while IDLE: ILLEGAL wins over SEQ. -/
theorem test_illegal_wins :
    look (fun e => (e.ecmd, statusWord e)) (step (oneEngine idleEngine [.access (.write 0 0 0x80000100#32)])) =
      some (0x80000100#32, 0x00000020#32) := by decide

/-- V55: FEED after reset: SEQ. -/
theorem test_feed_out_of_sequence :
    look (fun e => (e.ecmd, statusWord e)) (step (oneEngine idleEngine [.access (.write 0 0 0x80000061#32)])) =
      some (0x80000061#32, 0x00000040#32) := by decide

/-- V59: after an error INIT is ignored. -/
theorem test_ignored_after_error :
    look id (step (oneEngine erroredEngine [.access (.write 0 0 0x40000000#32)])) = some erroredEngine := by
  decide

/-- R25, R28: reads of CMD, STATUS and RESULT with RV = 1. -/
theorem test_reads :
    lookReads (step (oneEngine doneEngine [.access (.read 0 0)])) = some [0#32] ∧
    lookReads (step (oneEngine doneEngine [.access (.read 0 1)])) = some [0x00000010#32] ∧
    lookReads (step (oneEngine doneEngine [.access (.read 0 2)])) = some [0x12345678#32] := by decide

/-- R25, U3: RESULT while RV = 0 is a fault of the host. -/
theorem test_result_not_valid : step (oneEngine idleEngine [.access (.read 0 2)]) = .fault .resultNotValid := rfl

/-- R180: a reset clears the error. -/
theorem test_reset_clears :
    look (fun e => (e.ecmd, statusWord e)) (step (oneEngine erroredEngine [.reset 0])) = some (0#32, 0#32) := by decide

/-- The first command after reset, placed by the interface: R110's example. -/
theorem test_first_command : look statusWord (step (State.reset.withFetchWord 32 0x40000100)) = some 0x00000003#32 := by
  decide

/-! ## The byte-addressed bus, carried out for example values of HOST_BUS (R57, D21) -/

/-- A word's bytes, least significant first: the order of one platform. -/
def littleEndian (w : Word) : List Byte := [w.extractLsb' 0 8, w.extractLsb' 8 8, w.extractLsb' 16 8, w.extractLsb' 24 8]

/-- A look at what the bus returned first, after a next state. -/
def lookBus : Host.Outcome State Fault Refusal → Option (List Byte)
  | .next t => t.busAnswers.head?.map BusAnswer.bytes
  | _       => none

/-- A misaligned four-byte read of one platform takes the upper half of STATUS and the lower half of ECMD, from two register
reads: STATUS 0x00000040, ECMD 0xC0000000 (V56). -/
theorem test_bus_read_of_two_registers :
    let middle (a b : Word) : List Byte := ((littleEndian a ++ littleEndian b).drop 2).take 4
    let wide (a b : Word) : List Byte := littleEndian a ++ littleEndian b
    let bus (answer : Word → Word → List Byte) : BusPlan := .read 0 1 fun a => .read 0 3 fun b => .done [] (answer a b)
    lookBus (servePlan (.read 6 4) (bus middle) (oneEngine erroredEngine [])) = some [0#8, 0#8, 0#8, 0#8] ∧
    lookBus (servePlan (.read 4 8) (bus wide) (oneEngine erroredEngine [])) =
      some [0x40#8, 0#8, 0#8, 0#8, 0#8, 0#8, 0#8, 0xC0#8] := by decide

/-- A platform that gathers narrow writes: the bytes wait in the bus until four of them make a command word. -/
def gatheringBus (latch : List Byte) : BusAccess → BusPlan
  | .write _ bytes =>
    match latch ++ bytes with
    | [a, b, c, d] => .write 0 0 (d ++ c ++ b ++ a) (.done [] [])
    | more         => .done more []
  | .read _ _ => .done latch []

/-- Two halfword writes to such a bus are one INIT LEGACY, 0x40000100. -/
theorem test_bus_gathers_narrow_writes :
    let write (bytes : List Byte) (s : State) := servePlan (.write 0 bytes) (gatheringBus s.busLatch (.write 0 bytes)) s
    look statusWord (write [0x00#8, 0x01#8] (oneEngine idleEngine [])) = some 0x00000000#32 ∧
    look statusWord (andThen (write [0x00#8, 0x01#8] (oneEngine idleEngine [])) (write [0x00#8, 0x40#8])) =
      some 0x00000003#32 := by decide

/-! ## Witnesses: for each statement with hypotheses, values that meet them -/

/-- AssemblerLinesSpellAccesses: digits of either case, and the first and last ASCII characters. -/
theorem witness_asm_operand :
    'f' ∈ [Nat.digitChar 15, (Nat.digitChar 15).toUpper] ∧ 'F' ∈ [Nat.digitChar 15, (Nat.digitChar 15).toUpper] ∧
    '0' ∈ [Nat.digitChar 0, (Nat.digitChar 0).toUpper] ∧ (Char.ofNat 0).toNat < 128 ∧ (Char.ofNat 127).toNat < 128 := by
  decide

/-- InitOpensTransaction, OutOfSequenceRaisesSeq: no error, IDLE. -/
theorem witness_idle_engine :
    ∃ (s : State) (e : Engine), s.engine? s.sel = some e ∧ e.err = .none ∧ e.phase = .idle :=
  ⟨oneEngine idleEngine [], idleEngine, rfl, rfl, rfl⟩

/-- FeedWalksOneByte, FinalProducesResult: no error, ACTIVE. -/
theorem witness_active_engine :
    ∃ (s : State) (e : Engine), s.engine? s.sel = some e ∧ e.err = .none ∧ e.phase = .active :=
  ⟨oneEngine (freshEngine .legacy) [], freshEngine .legacy, rfl, rfl, rfl⟩

/-- QuiescentEngineIgnoresCommands. -/
theorem witness_errored_engine : ∃ (s : State) (e : Engine), s.engine? s.sel = some e ∧ e.err ≠ .none :=
  ⟨oneEngine erroredEngine [], erroredEngine, rfl, by decide⟩

/-- CommandNeedsAnEngine, at the boundary: the first number that is no engine. -/
theorem witness_no_such_engine : ∃ s : State, s.engines.length ≤ s.sel :=
  ⟨(oneEngine idleEngine []).select 1, by decide⟩

/-- CommandTouchesOneEngine and RegistersWrittenByColumn, for each command. -/
theorem witness_exec_next (i : Instr) :
    ∃ (s t : State) (e e' : Engine), exec i s = .next t ∧ s.engine? s.sel = some e ∧ t.engine? s.sel = some e' :=
  ⟨oneEngine (freshEngine .legacy) [], _, freshEngine .legacy, _,
    (exec_eq_onSelected ..).trans (onSelected_of_engine? (s := oneEngine (freshEngine .legacy) []) (effect i) rfl), rfl, rfl⟩

/-- LegacyIsShiftedStandard and MatcherConsultedForLegacyPairsOnly: keys of length 1 and 3. -/
theorem witness_key_not_pair : ([0x75#8] : List Byte).length ≠ 2 ∧ ([0x75#8, 0x73#8, 0x61#8] : List Byte).length ≠ 2 := by
  decide

/-- OverrideSetConstraints, at the boundary 0x80, for either byte. -/
theorem witness_not_ascii : (0x80#8 ≤ (0x80#8 : Byte) ∨ 0x80#8 ≤ (0x73#8 : Byte)) ∧ (0x80#8 ≤ (0x75#8 : Byte) ∨ 0x80#8 ≤ (0x80#8 : Byte)) := by
  decide

/-- TableIsLinearAndInjective's two injectivity clauses: two equal entries. -/
theorem witness_equal_entries :
    ∃ i j : Byte, tableRead i = tableRead j ∧ (tableRead i).extractLsb' 24 8 = (tableRead j).extractLsb' 24 8 :=
  ⟨0x80#8, 0x80#8, rfl, rfl⟩

/-- MatcherConsultedForLegacyPairsOnly: two matchers that agree on the key, and one that hits. -/
theorem witness_matchers :
    ∃ (f g : BitVec 16 → Option Word) (b0 b1 : Byte) (v : Word),
      f (ovrKey b0 b1) = g (ovrKey b0 b1) ∧ f (ovrKey b0 b1) = some v ∧ (2#2 : BitVec 2) = 2#2 ∧ (1#2 : BitVec 2) ≠ 2#2 :=
  ⟨ovrLookup, fun _ => some 0#32, 0x75#8, 0x73#8, 0#32, by decide, by decide, rfl, by decide⟩

/-- OutputMuxChoices, OverrideTakesPrecedence, TransactionComputesHash: a code of OVR. -/
theorem witness_code : ovrLookup (0x75#8 ++ 0x73#8) = some 0#32 := by decide

/-- OutputMuxChoices, UnmatchedPairFallsThrough, TransactionComputesHash: a pair that is no code of any OVR. -/
theorem witness_no_code : ovrLookup (0xFF#8 ++ 0xFF#8) = none := by decide

/-- StepRunsDecodedCommand, FetchedWordRunsNext. -/
theorem witness_command_write :
    ∃ (s : State) (k : Nat) (w : Word) (i : Instr) (rest : List HostOp),
      s.pending = .access (.write k 0 w) :: rest ∧ decode w = .legal i ∧ decodeTableWord 32 w.toNat = some i :=
  ⟨oneEngine idleEngine [.access (.write 0 0 0x800000FF#32)], 0, 0x800000FF#32, .feed 0xFF#8, [], rfl, by decide, by decide⟩

/-- CommandWriteOrder's three clauses. -/
theorem witness_command_order :
    (∃ (s : State) (e : Engine), s.pending = .access (.write 0 0 0xC0000000#32) :: [] ∧ s.engine? 0 = some e ∧
      e.err ≠ .none) ∧
    (∃ (s : State) (e : Engine) (why : Illegal), s.pending = .access (.write 0 0 0x00000000#32) :: [] ∧
      s.engine? 0 = some e ∧ e.err = .none ∧ decode 0x00000000#32 = .illegal why) ∧
    (∃ (s : State) (e : Engine) (i : Instr), s.pending = .access (.write 0 0 0xC0000000#32) :: [] ∧
      s.engine? 0 = some e ∧ e.err = .none ∧ decode 0xC0000000#32 = .legal i) :=
  ⟨⟨oneEngine erroredEngine [.access (.write 0 0 0xC0000000#32)], erroredEngine, rfl, rfl, by decide⟩,
    ⟨oneEngine idleEngine [.access (.write 0 0 0x00000000#32)], idleEngine, .opZero, rfl, rfl, rfl, by decide⟩,
    ⟨oneEngine idleEngine [.access (.write 0 0 0xC0000000#32)], idleEngine, .final, rfl, rfl, rfl, by decide⟩⟩

/-- ErrorsArePrecise: a legal word out of sequence, and an illegal word. -/
theorem witness_error_raised :
    (∃ (s t : State) (e e' : Engine), s.pending = .access (.write 0 0 0xC0000000#32) :: [] ∧ s.engine? 0 = some e ∧
      e.err = .none ∧ step s = .next t ∧ t.engine? 0 = some e' ∧ e'.err ≠ .none ∧ decode 0xC0000000#32 = .legal .final) ∧
    (∃ (s t : State) (e e' : Engine), s.pending = .access (.write 0 0 0x40000200#32) :: [] ∧ s.engine? 0 = some e ∧
      e.err = .none ∧ step s = .next t ∧ t.engine? 0 = some e' ∧ e'.err ≠ .none ∧
      decode 0x40000200#32 = .illegal .reservedBits) :=
  ⟨⟨oneEngine idleEngine [.access (.write 0 0 0xC0000000#32)], _, idleEngine, _, rfl, rfl, rfl, rfl, rfl, by decide,
      by decide⟩,
    ⟨oneEngine idleEngine [.access (.write 0 0 0x40000200#32)], _, idleEngine, _, rfl, rfl, rfl, rfl, rfl, by decide,
      by decide⟩⟩

/-- ErrorsStickUntilReset: a run over a command, and a read. -/
theorem witness_error_sticks :
    (∃ (s t : State) (e : Engine), s.engine? 0 = some e ∧ e.err ≠ .none ∧ (∀ op ∈ s.pending.take 1, op ≠ .reset 0) ∧
      steps 1 s = .next t) ∧
    (∃ (s : State) (e : Engine) (v : Word), s.engine? 0 = some e ∧ e.err ≠ .none ∧
      s.pending = regRead 0 .ecmd :: [] ∧ readReg .ecmd e = some v) :=
  ⟨⟨oneEngine erroredEngine [cmdWrite 0 (.init .std)], _, erroredEngine, rfl, by decide, by decide, rfl⟩,
    ⟨oneEngine erroredEngine [regRead 0 .ecmd], erroredEngine, 0xC0000000#32, rfl, by decide, rfl, rfl⟩⟩

/-- RegisterReadsAnswer and PlainAccessesHaveNoEffect: an engine with RV set, one with RV clear, each access, and a read
that is answered. -/
theorem witness_register_accesses :
    (oneEngine doneEngine [.access (.read 0 2)]).engine? 0 = some doneEngine ∧ doneEngine.rv = true ∧
    (oneEngine idleEngine [.access (.read 0 2)]).engine? 0 = some idleEngine ∧ idleEngine.rv = false ∧
    (∀ i : Nat, (oneEngine idleEngine [.access (.read 0 i)]).pending = .access (.read 0 i) :: []) ∧
    (∀ i : Nat, (oneEngine idleEngine [.access (.write 0 i 1#32)]).pending = .access (.write 0 i 1#32) :: []) ∧
    ∃ t, step (oneEngine idleEngine [.access (.read 0 0)]) = .next t :=
  ⟨rfl, rfl, rfl, rfl, fun _ => rfl, fun _ => rfl, _, rfl⟩

/-- UndefinedAccessesAreRefused, at its boundaries: index 4; index 3 of the first engine that does not exist. -/
theorem witness_undefined_accesses :
    (oneEngine idleEngine [.access (.read 0 4)]).pending = .access (.read 0 4) :: [] ∧ 4 ≤ 4 ∧
    (oneEngine idleEngine [.access (.write 1 3 0#32)]).pending = .access (.write 1 3 0#32) :: [] ∧ 3 < 4 ∧
    (oneEngine idleEngine []).engines.length ≤ 1 := by decide

/-- BusAccessFollowsHostBus (its one premise), IdleStatePersists. -/
theorem witness_bus_and_idle :
    (oneEngine idleEngine [.bus (.read 0 4)]).pending = .bus (.read 0 4) :: [] ∧ (oneEngine idleEngine []).pending = [] :=
  ⟨rfl, rfl⟩

/-- OtherEnginesUntouched. -/
theorem witness_two_engines :
    ∃ (s t : State), s.pending = cmdWrite 1 (.init .std) :: [] ∧ opEngine (cmdWrite 1 (.init .std)) = some 1 ∧
      step s = .next t ∧ (0 : Nat) ≠ 1 :=
  ⟨twoEngines idleEngine idleEngine [cmdWrite 1 (.init .std)], _, rfl, rfl, rfl, by decide⟩

/-- ResetTouchesOneEngine. -/
theorem witness_reset : ∃ (s : State) (e : Engine), s.engine? 1 = some e ∧ s.pending = .reset 1 :: [] :=
  ⟨twoEngines idleEngine erroredEngine [.reset 1], erroredEngine, rfl, rfl⟩

/-- FeedsTrackTheKey, TransactionComputesHash, HashCommandReturnsFunction, OverrideTakesPrecedence,
UnmatchedPairFallsThrough: an engine that is ready, in mid-transaction even, and the accesses pending. -/
theorem witness_ready (m : Mode) (key : List Byte) :
    (∃ s : State, s.Ready 0 ∧ s.pending = cmdWrite 0 (.init m) :: (key.map fun b => cmdWrite 0 (.feed b)) ++ []) ∧
    (∃ s : State, s.Ready 0 ∧ s.pending = transaction 0 m key ++ []) ∧
    (∃ s : State, s.Ready 0 ∧ s.pending = hashCommand 0 m key ++ []) :=
  ⟨⟨oneEngine (freshEngine .std) _, ⟨_, rfl, rfl⟩, rfl⟩, ⟨oneEngine (freshEngine .std) _, ⟨_, rfl, rfl⟩, rfl⟩,
    ⟨oneEngine (freshEngine .std) _, ⟨_, rfl, rfl⟩, rfl⟩⟩

/-- TransactionIndependentOfHistory, LengthClassTellsPairs: two engines with different pasts and a transaction that ends. -/
theorem witness_transaction_ends :
    ∃ (s s' t t' : State) (e e' : Engine), s.Ready 0 ∧ s'.Ready 1 ∧
      s.pending = transaction 0 .legacy [] ++ [] ∧ s'.pending = transaction 1 .legacy [] ++ [] ∧
      steps 2 s = .next t ∧ steps 2 s' = .next t' ∧ t.engine? 0 = some e ∧ t'.engine? 1 = some e' :=
  ⟨oneEngine (freshEngine .std) (transaction 0 .legacy []), twoEngines idleEngine doneEngine (transaction 1 .legacy []),
    _, _, _, _, ⟨_, rfl, rfl⟩, ⟨_, rfl, rfl⟩, rfl, rfl, rfl, rfl, rfl, rfl⟩

/-- LegacyGenericRange, on both paths. -/
theorem witness_legacy_final :
    (∃ t e', exec .final (oneEngine (openEngine .legacy 0x0000FFFF#32 2#2 0xFF#8 0xFF#8) []) = .next t ∧
      t.engine? 0 = some e' ∧ e'.oh = false) ∧
    (∃ t e', exec .final (oneEngine (openEngine .legacy 0x25624035#32 2#2 0x75#8 0x73#8) []) = .next t ∧
      t.engine? 0 = some e' ∧ e'.oh = true) :=
  ⟨⟨_, _, rfl, rfl, by decide⟩, ⟨_, _, rfl, rfl, by decide⟩⟩

/-- EnginesAreIndependent, PendingCommandsAreServed: command writes to both engines, one of them illegal. -/
theorem witness_command_writes :
    ∀ op ∈ [cmdWrite 0 (.init .std), .access (.write 1 0 0xFFFFFFFF#32), cmdWrite 0 .final],
      (twoEngines idleEngine idleEngine []).IsCommandWrite op := by
  intro op h
  simp only [List.mem_cons, List.not_mem_nil, or_false] at h
  rcases h with rfl | rfl | rfl
  · exact ⟨0, _, rfl, by decide⟩
  · exact ⟨1, _, rfl, by decide⟩
  · exact ⟨0, _, rfl, by decide⟩

/-- A reset engine meets the invariant. -/
theorem idleEngine_inv : idleEngine.Inv := by
  constructor <;> simp [idleEngine, Engine.afterReset]

/-- An engine at the end of the STD transaction on the empty key (V2). -/
def emptyKeyEngine : Engine := { idleEngine with rv := true, crc := 0xFFFFFFFF#32, result := 0#32 }

theorem emptyKeyEngine_inv : emptyKeyEngine.Inv := by
  have walked : emptyKeyEngine.Walked [] := ⟨rfl, rfl, by simp, by simp⟩
  constructor <;> try simp [emptyKeyEngine, idleEngine, Engine.afterReset]
  exact ⟨[], walked, by decide, rfl⟩

/-- StepKeepsInvariant, ServedResultIsWalkedHash: a state that meets the invariant and steps, over a command, a RESULT read
and a STATUS read. -/
theorem witness_invariant :
    (∃ s t : State, s.Inv ∧ step s = .next t) ∧
    (∃ s t : State, s.Inv ∧ s.pending = .access (.read 0 2) :: [] ∧ s.engine? 0 = some emptyKeyEngine ∧
      step s = .next t ∧ ∃ r ∈ t.reads, r.reg = .result) ∧
    (∃ s t : State, s.Inv ∧ step s = .next t ∧ ∃ r ∈ t.reads, r.reg = .status) :=
  have inv {e : Engine} (h : e.Inv) (ops : List HostOp) : (oneEngine e ops).Inv :=
    ⟨by simpa [oneEngine] using h, by simp [oneEngine], by simp [oneEngine]⟩
  ⟨⟨_, _, inv idleEngine_inv [cmdWrite 0 (.init .legacy)], rfl⟩,
    ⟨_, _, inv emptyKeyEngine_inv [.access (.read 0 2)], rfl, rfl, rfl, _, List.mem_singleton.mpr rfl, rfl⟩,
    ⟨_, _, inv emptyKeyEngine_inv [.access (.read 0 1)], rfl, _, List.mem_singleton.mpr rfl, rfl⟩⟩

end Sys2Proof.Machine.Tests
end

/-! PROOFS of the family 10_state: first the facts about the model's operations that the statements need, then the
statements. -/

namespace Sys2Proof.Machine

/-! ## What FEED and FINAL leave unchanged (R22's "written by" column) -/

section
variable (b : Byte) (e : Engine)

@[simp] theorem feedEngine_phase : (feedEngine b e).phase = e.phase := by
  cases h : e.phase <;> simp [feedEngine, h]

@[simp] theorem feedEngine_mode : (feedEngine b e).mode = e.mode := by
  cases h : e.phase <;> simp [feedEngine, h]

@[simp] theorem feedEngine_rv : (feedEngine b e).rv = e.rv := by
  cases h : e.phase <;> simp [feedEngine, h]

@[simp] theorem feedEngine_oh : (feedEngine b e).oh = e.oh := by
  cases h : e.phase <;> simp [feedEngine, h]

@[simp] theorem feedEngine_result : (feedEngine b e).result = e.result := by
  cases h : e.phase <;> simp [feedEngine, h]

/-- B0 is captured at LEN = 0 only (R111). -/
theorem feedEngine_b0_of_ne (hl : e.len ≠ 0#2) : (feedEngine b e).b0 = e.b0 := by
  cases h : e.phase <;> simp [feedEngine, h, hl]

/-- B1 is captured at LEN = 1 only (R111). -/
theorem feedEngine_b1_of_ne (hl : e.len ≠ 1#2) : (feedEngine b e).b1 = e.b1 := by
  cases h : e.phase <;> simp [feedEngine, h, hl]

@[simp] theorem finalEngine_mode : (finalEngine e).mode = e.mode := by
  cases h : e.phase <;> simp [finalEngine, h]

@[simp] theorem finalEngine_len : (finalEngine e).len = e.len := by
  cases h : e.phase <;> simp [finalEngine, h]

@[simp] theorem finalEngine_crc : (finalEngine e).crc = e.crc := by
  cases h : e.phase <;> simp [finalEngine, h]

@[simp] theorem finalEngine_b0 : (finalEngine e).b0 = e.b0 := by
  cases h : e.phase <;> simp [finalEngine, h]

@[simp] theorem finalEngine_b1 : (finalEngine e).b1 = e.b1 := by
  cases h : e.phase <;> simp [finalEngine, h]
end

/-- A command that leaves ERR clear leaves ECMD (R27, R162). -/
theorem effect_ecmd_of_err {i : Instr} {e : Engine} (h : (effect i e).err = .none) : (effect i e).ecmd = e.ecmd := by
  cases i with
  | init m => rfl
  | feed b =>
    cases hp : e.phase with
    | idle => simp [effect, feedEngine_of_idle b e hp] at h
    | active => simp [effect, feedEngine_of_active b e hp]
  | final =>
    cases hp : e.phase with
    | idle => simp [effect, finalEngine_of_idle e hp] at h
    | active => simp [effect, finalEngine_of_active e hp]

/-! ## One command, seen from its engine -/

/-- What an answered command leaves in the selected engine. -/
theorem exec_selected {i : Instr} {s t : State} {e e' : Engine} (h : exec i s = .next t) (he : s.engine? s.sel = some e)
    (he' : t.engine? s.sel = some e') : e' = unlessQuiescent (effect i) e := by
  rw [exec_eq_onSelected, onSelected_of_engine? _ he] at h
  cases h
  rw [setEngine_engine?_self _ _ _ (engine?_eq_some_lt he)] at he'
  exact (Option.some.inj he').symm

/-! ## The walk of a transaction -/

/-- LEN = 3 is three bytes fed or more (R24). -/
theorem lenClass_eq_three {n : Nat} : lenClass n = 3#2 ↔ 3 ≤ n := by
  match n with
  | 0 => decide
  | 1 => decide
  | 2 => decide
  | n + 3 => simp [lenClass]

/-- INIT starts the walk of the empty key (R110). -/
theorem initEngine_walked (m : Mode) (e : Engine) : (initEngine m e).Walked [] :=
  ⟨rfl, rfl, by simp, by simp⟩

/-- An error leaves the walk registers (R162). -/
theorem Engine.Walked.raiseError {e : Engine} {key : List Byte} (h : e.Walked key) (c : ErrCode) (w : Word) :
    (raiseError c w e).Walked key :=
  ⟨h.crc_eq, h.len_eq, h.b0_eq, h.b1_eq⟩

/-- FEED in an open transaction walks one byte more of the key: R142's induction step. -/
theorem Engine.Walked.feed {e : Engine} {key : List Byte} (h : e.Walked key) (hp : e.phase = .active) (b : Byte) :
    (feedEngine b e).Walked (key ++ [b]) := by
  obtain ⟨hcrc, hlen, hb0, hb1⟩ := h
  rw [feedEngine_of_active b e hp]
  refine ⟨?_, ?_, fun c hc => ?_, fun c hc => ?_⟩
  · simp [hcrc, acc_concat]
  · simp [hlen, lenClass_succ]
  · match key with
    | [] => simpa [hlen] using hc
    | x :: xs => simpa [hlen, lenClass_eq_zero] using hb0 c hc
  · match key with
    | [] => simp at hc
    | [x] => simpa [hlen, lenClass_eq_one] using hc
    | x :: y :: xs => simpa [hlen, lenClass_eq_one] using hb1 c hc

/-- FINAL keeps the walk registers (R137). -/
theorem Engine.Walked.final {e : Engine} {key : List Byte} (h : e.Walked key) : (finalEngine e).Walked key :=
  ⟨by simp [h.crc_eq], by simp [h.len_eq], by simpa using h.b0_eq, by simpa using h.b1_eq⟩

/-- The mux over the walk of a key gives the source's function of the key, and OH whether the override path was taken
(R140 to R142). -/
theorem outMux_of_walked {e : Engine} {key : List Byte} (h : e.Walked key) (m : Mode) :
    outMux m e.len e.b0 e.b1 e.crc = (hashOf m key, overrideHit m key) := by
  obtain ⟨hcrc, hlen, hb0, hb1⟩ := h
  cases m with
  | std => simp [outMux, hashOf, overrideHit, standardCrc32, hcrc]
  | legacy =>
    by_cases h2 : key.length = 2
    · obtain ⟨x, y, rfl⟩ := List.length_eq_two.mp h2
      have hl : e.len = 2#2 := hlen
      rw [outMux, hl, hb0 x rfl, hb1 y rfl, hcrc, outMuxWith_pair]
      cases hv : ovrLookup (ovrKey x y) <;> simp [hashOf, overrideHit, legacyShardHash, overrideOf, hv]
    · have hl : e.len ≠ 2#2 := fun hl => h2 (lenClass_eq_two.mp (hlen ▸ hl))
      rw [outMux, outMuxWith_generic _ _ _ _ hl]
      simp [hashOf, overrideHit, legacyShardHash, overrideOf_eq_none h2, hcrc]

/-! ## Runs of command writes -/

/-- Every command's word decodes to it (R74, R75). -/
theorem decode_encode (i : Instr) : decode (encode i) = .legal i := by
  cases i with
  | init m => cases m <;> decide
  | feed b => revert b; decide +kernel
  | final => decide

/-- Commands on one engine, in order, each behind the quiescence check (R58, R163). -/
def runEffects (is : List Instr) (e : Engine) : Engine := is.foldl (fun f i => unlessQuiescent (effect i) f) e

@[simp] theorem runEffects_nil (e : Engine) : runEffects [] e = e := rfl

@[simp] theorem runEffects_cons (i : Instr) (is : List Instr) (e : Engine) :
    runEffects (i :: is) e = runEffects is (unlessQuiescent (effect i) e) := rfl

theorem runEffects_append (is js : List Instr) (e : Engine) :
    runEffects (is ++ js) e = runEffects js (runEffects is e) := List.foldl_append

/-- A write of a command to an existing engine's CMD, served, completes with the command's effect on that engine. -/
theorem step_cmdWrite {s : State} {k : Nat} {e : Engine} {i : Instr} {rest : List HostOp} (he : s.engine? k = some e)
    (hp : s.pending = cmdWrite k i :: rest) :
    step s = .next (((s.withPending rest).select k).setEngine k (unlessQuiescent (effect i) e)) := by
  have he' : ((s.withPending rest).select k).engine? ((s.withPending rest).select k).sel = some e := he
  rw [step_cmdWord hp, runCommand_eq_onSelected, onSelected_of_engine? _ he']
  simp [wordEffect, decode_encode]

/-- A run over command writes to one engine completes, one command a step, with their effects on it. -/
theorem steps_cmdWrites {s : State} {k : Nat} {e : Engine} {is : List Instr} {rest : List HostOp}
    (he : s.engine? k = some e) (hp : s.pending = is.map (cmdWrite k) ++ rest) :
    ∃ t, steps is.length s = .next t ∧ t.engine? k = some (runEffects is e) ∧ t.pending = rest ∧ t.reads = s.reads := by
  induction is generalizing s e with
  | nil => exact ⟨s, rfl, he, hp, rfl⟩
  | cons i is ih =>
    have hs := step_cmdWrite he hp
    have hlt : k < ((s.withPending (is.map (cmdWrite k) ++ rest)).select k).engines.length := engine?_eq_some_lt he
    obtain ⟨t, ht, hte, htp, htr⟩ := ih (setEngine_engine?_self _ _ _ hlt) rfl
    exact ⟨t, (steps_succ_of_next hs).trans ht, hte, htp, htr⟩

/-! ## Transactions -/

/-- The commands of a transaction (R139). -/
def transactionCommands (m : Mode) (key : List Byte) : List Instr := .init m :: key.map .feed ++ [.final]

theorem transaction_eq_map (k : Nat) (m : Mode) (key : List Byte) :
    transaction k m key = (transactionCommands m key).map (cmdWrite k) := by
  simp [transaction, transactionCommands, Function.comp_def]

@[simp] theorem transactionCommands_length (m : Mode) (key : List Byte) :
    (transactionCommands m key).length = key.length + 2 := by
  simp [transactionCommands]

/-- An engine in an open transaction of mode m that was fed this key (R142's induction hypothesis). -/
structure Engine.Tracks (m : Mode) (key : List Byte) (e : Engine) : Prop where
  phase_eq : e.phase = .active
  mode_eq  : e.mode = m
  rv_eq    : e.rv = false
  err_eq   : e.err = .none
  walked   : e.Walked key

/-- INIT opens a transaction on the empty key (R110). -/
theorem initEngine_tracks (m : Mode) {e : Engine} (he : e.err = .none) : (initEngine m e).Tracks m [] :=
  ⟨rfl, rfl, rfl, he, initEngine_walked m e⟩

/-- FEED tracks one byte more (R111). -/
theorem Engine.Tracks.feed {m : Mode} {key : List Byte} {e : Engine} (h : e.Tracks m key) (b : Byte) :
    (feedEngine b e).Tracks m (key ++ [b]) where
  phase_eq := by simp [h.phase_eq]
  mode_eq := by simp [h.mode_eq]
  rv_eq := by simp [h.rv_eq]
  err_eq := by simp [feedEngine_of_active b e h.phase_eq, h.err_eq]
  walked := h.walked.feed h.phase_eq b

/-- The FEEDs of more bytes track them all: R142's induction. -/
theorem Engine.Tracks.feeds {m : Mode} {key : List Byte} {e : Engine} (h : e.Tracks m key) (more : List Byte) :
    (runEffects (more.map .feed) e).Tracks m (key ++ more) := by
  induction more generalizing key e with
  | nil => simpa using h
  | cons b more ih => simpa [unlessQuiescent_of_none h.err_eq, effect] using ih (h.feed b)

/-- INIT and the FEEDs of a key track the key, from any engine without error (R142). -/
theorem runEffects_init_feeds_tracks (m : Mode) (key : List Byte) {e : Engine} (he : e.err = .none) :
    (runEffects (.init m :: key.map .feed) e).Tracks m key := by
  simpa [unlessQuiescent_of_none he, effect] using (initEngine_tracks m he).feeds key

/-- The engine at the end of a transaction is FINAL's on one that tracks the key. -/
theorem runEffects_transaction (m : Mode) (key : List Byte) {e : Engine} (he : e.err = .none) :
    ∃ f : Engine, f.Tracks m key ∧ runEffects (transactionCommands m key) e = finalEngine f := by
  have h := runEffects_init_feeds_tracks m key he
  refine ⟨_, h, ?_⟩
  rw [transactionCommands, runEffects_append]
  exact unlessQuiescent_of_none h.err_eq

/-- A transaction of a ready engine completes, and leaves the engine as FINAL leaves one that tracks the key (R139). -/
theorem steps_transaction {s : State} {k : Nat} {m : Mode} {key : List Byte} {rest : List HostOp} (hr : s.Ready k)
    (hp : s.pending = transaction k m key ++ rest) :
    ∃ (t : State) (f : Engine), steps (key.length + 2) s = .next t ∧ f.Tracks m key ∧ t.engine? k = some (finalEngine f) ∧
      t.pending = rest ∧ t.reads = s.reads := by
  obtain ⟨e, he, herr⟩ := hr
  obtain ⟨f, hf, hrun⟩ := runEffects_transaction m key herr
  rw [transaction_eq_map] at hp
  obtain ⟨t, ht, hte, htp, htr⟩ := steps_cmdWrites he hp
  exact ⟨t, f, transactionCommands_length m key ▸ ht, hf, hrun ▸ hte, htp, htr⟩

/-! ## The invariant of an engine -/

/-- The reset values meet the invariant, whatever the unspecified registers hold (R180). -/
theorem afterReset_inv (c : Word) (b0 b1 : Byte) (r : Word) : (Engine.afterReset c b0 b1 r).Inv := by
  constructor <;> simp [Engine.afterReset]

/-- INIT on an engine without error keeps the invariant: it opens the walk of the empty key. -/
theorem initEngine_inv {e : Engine} (h : e.Inv) (he : e.err = .none) (m : Mode) : (initEngine m e).Inv where
  active_walked _ := ⟨[], initEngine_walked m e⟩
  active_rv _ := rfl
  valid_result hrv := by simp at hrv
  oh_rv hoh := by simp at hoh
  no_error _ := h.no_error he
  illegal_error herr := by simp [he] at herr
  seq_error herr := by simp [he] at herr

/-- An illegal word keeps the invariant (R162). -/
theorem raiseError_illegal_inv {e : Engine} (h : e.Inv) {w : Word} {why : Illegal} (hw : decode w = .illegal why) :
    (raiseError .illegal w e).Inv where
  active_walked hp := let ⟨key, hk⟩ := h.active_walked hp; ⟨key, hk.raiseError _ w⟩
  active_rv := h.active_rv
  valid_result hrv := let ⟨key, hk, hres⟩ := h.valid_result hrv; ⟨key, hk.raiseError _ w, hres⟩
  oh_rv := h.oh_rv
  no_error herr := by simp at herr
  illegal_error _ := ⟨why, hw⟩
  seq_error herr := by simp at herr

/-- A FEED or FINAL word while IDLE keeps the invariant (R161, R162). -/
theorem raiseError_seq_inv {e : Engine} (h : e.Inv) (hp : e.phase = .idle) {w : Word}
    (hw : (∃ b, decode w = .legal (.feed b)) ∨ decode w = .legal .final) : (raiseError .seq w e).Inv where
  active_walked hp' := let ⟨key, hk⟩ := h.active_walked hp'; ⟨key, hk.raiseError _ w⟩
  active_rv := h.active_rv
  valid_result hrv := let ⟨key, hk, hres⟩ := h.valid_result hrv; ⟨key, hk.raiseError _ w, hres⟩
  oh_rv := h.oh_rv
  no_error herr := by simp at herr
  illegal_error herr := by simp at herr
  seq_error _ := ⟨hp, hw⟩

/-- FEED on an engine without error keeps the invariant: out of sequence it is the SEQ error, else the walk of one byte
more. -/
theorem feedEngine_inv {e : Engine} (h : e.Inv) (he : e.err = .none) (b : Byte) : (feedEngine b e).Inv := by
  cases hp : e.phase with
  | idle =>
    rw [feedEngine_of_idle b e hp]
    exact raiseError_seq_inv h hp (.inl ⟨b, decode_encode (.feed b)⟩)
  | active =>
    obtain ⟨key, hk⟩ := h.active_walked hp
    have herr : (feedEngine b e).err = .none := by simp [feedEngine_of_active b e hp, he]
    have hecmd : (feedEngine b e).ecmd = e.ecmd := by simp [feedEngine_of_active b e hp]
    exact {
      active_walked := fun _ => ⟨key ++ [b], hk.feed hp b⟩
      active_rv := fun _ => by simp [h.active_rv hp]
      valid_result := fun hrv => by simp [h.active_rv hp] at hrv
      oh_rv := by simpa using h.oh_rv
      no_error := fun _ => hecmd.trans (h.no_error he)
      illegal_error := fun h' => by simp [herr] at h'
      seq_error := fun h' => by simp [herr] at h' }

/-- FINAL on an engine without error keeps the invariant: out of sequence it is the SEQ error, else its result is the hash
of the key walked. -/
theorem finalEngine_inv {e : Engine} (h : e.Inv) (he : e.err = .none) : (finalEngine e).Inv := by
  cases hp : e.phase with
  | idle =>
    rw [finalEngine_of_idle e hp]
    exact raiseError_seq_inv h hp (.inr (decode_encode .final))
  | active =>
    obtain ⟨key, hk⟩ := h.active_walked hp
    have hf := finalEngine_of_active e hp
    rw [outMux_of_walked hk] at hf
    have hk' := hk.final
    rw [hf] at hk' ⊢
    exact {
      active_walked := fun h' => by cases h'
      active_rv := fun h' => by cases h'
      valid_result := fun _ => ⟨key, hk', rfl, rfl⟩
      oh_rv := fun _ => rfl
      no_error := fun _ => h.no_error he
      illegal_error := fun h' => by simp [he] at h'
      seq_error := fun h' => by simp [he] at h' }

/-- A command word, legal or not, keeps the invariant of an engine without error. -/
theorem wordEffect_inv {e : Engine} (h : e.Inv) (he : e.err = .none) (w : Word) : (wordEffect w e).Inv := by
  cases hw : decode w with
  | illegal why => simpa only [wordEffect, hw] using raiseError_illegal_inv h hw
  | legal i =>
    simp only [wordEffect, hw]
    cases i with
    | init m => exact initEngine_inv h he m
    | feed b => exact feedEngine_inv h he b
    | final => exact finalEngine_inv h he

/-- A command word behind the quiescence check keeps the invariant of any engine (R163, R164). -/
theorem unlessQuiescent_wordEffect_inv {e : Engine} (h : e.Inv) (w : Word) : (unlessQuiescent (wordEffect w) e).Inv := by
  by_cases he : e.err = .none
  · rw [unlessQuiescent_of_none he]
    exact wordEffect_inv h he w
  · rwa [unlessQuiescent_of_err he]

/-! ## The invariant of the block -/

/-- An engine's registers replaced by ones that meet the invariant, and an existing engine selected. -/
theorem State.Inv.setEngine {s : State} {k j : Nat} {f : Engine} (h : s.Inv) (hj : j < s.engines.length) (hf : f.Inv) :
    ((s.select j).setEngine k f).Inv where
  engines_inv e he := by
    obtain he | rfl := List.mem_or_eq_of_mem_set he
    · exact h.engines_inv e he
    · exact hf
  reads_sound := h.reads_sound
  sel_exists := by simpa using hj

/-- One more sound read recorded. -/
theorem State.Inv.recordRead {s : State} {r : HostRead} (h : s.Inv) (hr : r.Sound) : (s.recordRead r).Inv where
  engines_inv := h.engines_inv
  reads_sound q hq := by
    obtain hq | rfl := List.mem_append.mp hq |>.imp_right List.mem_singleton.mp
    · exact h.reads_sound q hq
    · exact hr
  sel_exists := h.sel_exists

/-- An answered read of a safe block is sound. -/
theorem State.Inv.readRegister_sound {s : State} {k i : Nat} {r : HostRead} (h : s.Inv)
    (hr : readRegister k i s = .next r) : r.Sound := by
  obtain ⟨-, -, he, hv⟩ := readRegister_next hr
  exact ⟨hv, h.engines_inv _ (mem_of_engine? he)⟩

/-- A served register access keeps the invariant. -/
theorem State.Inv.serveAccess {s t : State} {a : Access} (h : s.Inv) (ht : serveAccess a s = .next t) : t.Inv := by
  obtain ⟨k, w, e, -, he, rfl⟩ | ⟨k, r, w, -, -, rfl⟩ | ⟨k, i, r, -, hr, rfl⟩ := serveAccess_next ht
  · exact h.setEngine (engine?_eq_some_lt he) (unlessQuiescent_wordEffect_inv (h.engines_inv e (mem_of_engine? he)) w)
  · exact h
  · exact h.recordRead (h.readRegister_sound hr)

/-- A served reset of an engine keeps the invariant (R180). -/
theorem State.Inv.serveReset {s t : State} {k : Nat} (h : s.Inv) (ht : serveReset k s = .next t) : t.Inv := by
  obtain ⟨e, c, b0, b1, r, -, rfl⟩ := serveReset_next ht
  obtain ⟨hengines, hreads, hsel⟩ := h.setEngine (k := k) h.sel_exists (afterReset_inv c b0 b1 r)
  exact ⟨hengines, hreads, hsel⟩

/-- The invariant says nothing of the pending accesses. -/
theorem State.Inv.withPending {s : State} (h : s.Inv) (ops : List HostOp) : (s.withPending ops).Inv :=
  ⟨h.engines_inv, h.reads_sound, h.sel_exists⟩

/-- The invariant says nothing of the bus's memory and answers. -/
theorem State.Inv.answerBus {s : State} (h : s.Inv) (b : BusAccess) (latch bytes : List Byte) :
    (s.answerBus b latch bytes).Inv :=
  ⟨h.engines_inv, h.reads_sound, h.sel_exists⟩

/-- Every step keeps the invariant, whatever access it serves. -/
theorem State.Inv.step {s t : State} (h : s.Inv) (ht : step s = .next t) : t.Inv := by
  obtain ⟨-, rfl⟩ | ⟨a, rest, -, ht⟩ | ⟨b, rest, p, -, -, ht⟩ | ⟨k, rest, -, ht⟩ := step_next ht
  · exact h
  · exact (h.withPending rest).serveAccess ht
  · exact servePlan_keeps (P := State.Inv) (fun _ _ _ => State.Inv.serveAccess)
      (fun _ b latch bytes hs => hs.answerBus b latch bytes) (h.withPending rest) ht
  · exact (h.withPending rest).serveReset ht

/-! ## The STATUS word, and what reads return -/

section
variable (e : Engine)

theorem statusWord_phase : (statusWord e).getLsbD 0 = (e.phase == .active) := by
  cases h : e.phase <;> simp only [statusWord, BitVec.getLsbD_append, phaseBit, h] <;> simp

theorem statusWord_mode : (statusWord e).getLsbD 1 = (e.mode == .legacy) := by
  cases h : e.mode <;> simp only [statusWord, BitVec.getLsbD_append, modeBit, h] <;> simp

theorem statusWord_len : (statusWord e).extractLsb' 2 2 = e.len := by
  ext i hi
  simp only [BitVec.getElem_extractLsb', statusWord, BitVec.getLsbD_append]
  grind

theorem statusWord_rv : (statusWord e).getLsbD 4 = e.rv := by
  simp only [statusWord, BitVec.getLsbD_append]
  simp

theorem statusWord_err : (statusWord e).extractLsb' 5 2 = errBits e.err := by
  ext i hi
  simp only [BitVec.getElem_extractLsb', statusWord, BitVec.getLsbD_append]
  grind

theorem statusWord_oh : (statusWord e).getLsbD 7 = e.oh := by
  simp only [statusWord, BitVec.getLsbD_append]
  simp

theorem statusWord_high : (statusWord e).extractLsb' 8 24 = 0#24 := by
  ext i hi
  simp only [BitVec.getElem_extractLsb', statusWord, BitVec.getLsbD_append]
  grind
end

/-- Error code 3 is never produced (R161). -/
theorem errBits_ne_three (c : ErrCode) : errBits c ≠ 3#2 := by cases c <;> decide

/-- RESULT has a value exactly while RV is set (R25). -/
theorem readReg_result_eq_some {e : Engine} {v : Word} : readReg .result e = some v ↔ e.rv = true ∧ e.result = v := by
  simp [readReg]

/-- A sound RESULT read returned the valid RESULT of its source, the hash of the key the source had walked (R25, R142). -/
theorem HostRead.Sound.result {r : HostRead} (h : r.Sound) (hr : r.reg = .result) :
    r.source.rv = true ∧ r.value = r.source.result ∧
      ∃ key, r.source.Walked key ∧ r.value = hashOf r.source.mode key ∧ r.source.oh = overrideHit r.source.mode key := by
  have hv := h.value_eq
  rw [hr] at hv
  obtain ⟨hrv, hres⟩ := readReg_result_eq_some.mp hv
  obtain ⟨key, hk, hhash, hoh⟩ := h.source_inv.valid_result hrv
  exact ⟨hrv, hres.symm, key, hk, hres ▸ hhash, hoh⟩

/-- A sound STATUS read returned its source's STATUS word (R23). -/
theorem HostRead.Sound.status {r : HostRead} (h : r.Sound) (hr : r.reg = .status) : r.value = statusWord r.source := by
  have hv := h.value_eq
  rw [hr] at hv
  exact (Option.some.inj hv).symm

/-- A step that serves a register read records what the read answered. -/
theorem step_read {s : State} {k i : Nat} {rest : List HostOp} (hp : s.pending = .access (.read k i) :: rest) :
    step s = andThen (readRegister k i (s.withPending rest)) fun r => .next ((s.withPending rest).recordRead r) :=
  step_cons hp

/-- A served register read that is answered has read a register with a value, and only its record and the access are
new (R28). -/
theorem step_read_next {s t : State} {k i : Nat} {rest : List HostOp} (hp : s.pending = .access (.read k i) :: rest)
    (ht : step s = .next t) :
    ∃ g e v, i = indexOfReg g ∧ s.engine? k = some e ∧ readReg g e = some v ∧
      t = (s.withPending rest).recordRead { engine := k, reg := g, value := v, source := e } := by
  rw [step_read hp] at ht
  obtain ⟨r, hr, hrec⟩ := andThen_eq_next ht
  obtain ⟨hi, rfl, he, hv⟩ := readRegister_next hr
  cases hrec
  exact ⟨r.reg, r.source, r.value, hi, he, hv, rfl⟩

/-- A served read of a register that has a value records it. -/
theorem step_read_of_value {s : State} {k : Nat} {e : Engine} {r : Reg} {v : Word} {rest : List HostOp}
    (he : s.engine? k = some e) (hv : readReg r e = some v)
    (hp : s.pending = .access (.read k (indexOfReg r)) :: rest) :
    step s = .next { s with
      pending := rest
      reads := s.reads ++ [{ engine := k, reg := r, value := v, source := e }] } := by
  rw [step_read hp, readRegister_of_engine? (s := s.withPending rest) he hv]
  rfl

/-! ## Refused and ignored accesses -/

/-- No index above 3 names a register (R21). -/
theorem regOfIndex_eq_none {i : Nat} (h : 4 ≤ i) : regOfIndex i = none := by
  match i, h with
  | _ + 4, _ => rfl

/-- Every index below 4 is a register's (R21). -/
theorem exists_indexOfReg {i : Nat} (h : i < 4) : ∃ r, i = indexOfReg r := by
  match i, h with
  | 0, _ => exact ⟨.cmd, rfl⟩
  | 1, _ => exact ⟨.status, rfl⟩
  | 2, _ => exact ⟨.result, rfl⟩
  | 3, _ => exact ⟨.ecmd, rfl⟩

/-- No engine exists from N_ENGINES on (R172). -/
theorem engine?_eq_none {s : State} {k : Nat} (h : s.engines.length ≤ k) : s.engine? k = none :=
  List.getElem?_eq_none h

/-- A write to a read-only register of an existing engine changes nothing (R28). -/
theorem serveAccess_write_readOnly {s : State} {k : Nat} {e : Engine} {r : Reg} (w : Word) (he : s.engine? k = some e)
    (hr : r ≠ .cmd) : serveAccess (.write k (indexOfReg r) w) s = .next s := by
  have ignored : serveIgnoredWrite k s = .next s := by simp [serveIgnoredWrite, he]
  cases r with
  | cmd => exact absurd rfl hr
  | status => exact ignored
  | result => exact ignored
  | ecmd => exact ignored

/-- An access to an index above 3 is refused (R21, U7). -/
theorem serveAccess_noSuchRegister {i : Nat} (h : 4 ≤ i) (k : Nat) (w : Word) (s : State) :
    serveAccess (.write k i w) s = .refused .noSuchRegister ∧ serveAccess (.read k i) s = .refused .noSuchRegister := by
  simp [serveAccess, readRegister, regOfIndex_eq_none h, andThen]

/-- An access to a register of an engine that does not exist is refused (R172, U7). -/
theorem serveAccess_noSuchEngine {s : State} {k : Nat} (h : s.engine? k = none) (r : Reg) (w : Word) :
    serveAccess (.write k (indexOfReg r) w) s = .refused .noSuchEngine ∧
    serveAccess (.read k (indexOfReg r)) s = .refused .noSuchEngine := by
  constructor
  · cases r <;> simp [serveAccess, serveWrite, runCommand_eq_onSelected, onSelected, serveIgnoredWrite, h]
  · simp [serveAccess, readRegister, andThen, h]

/-- A reset of an engine that does not exist is refused (R172, U7). -/
theorem serveReset_noSuchEngine {s : State} {k : Nat} (h : s.engine? k = none) :
    serveReset k s = .refused .noSuchEngine := by
  simp [serveReset, h]

/-! ## Decoded command words -/

/-- A write of a command's word to CMD, served, is the command on that engine (R163). -/
theorem step_cmdWord_of_legal {s : State} {k : Nat} {w : Word} {i : Instr} {rest : List HostOp}
    (hp : s.pending = .access (.write k (indexOfReg .cmd) w) :: rest) (hw : decode w = .legal i) :
    step s = exec i ((s.withPending rest).select k) := by
  rw [step_cmdWord hp, runCommand, hw]

/-- A numbered word that reads as a command is that command's word. -/
theorem decode_of_decodeTableWord {n w : Nat} {i : Instr} (h : decodeTableWord n w = some i) :
    decode (BitVec.ofNat 32 (w % 2 ^ n)) = .legal i := by
  unfold decodeTableWord at h
  split at h
  · rename_i j hj
    exact hj.trans (congrArg _ (Option.some.inj h))
  · cases h

/-! ## The statements -/

/-- Settles O28: on an engine with an error a command changes nothing; on one without, by the frame of each command. -/
theorem registersWrittenByColumn : Obligations.RegistersWrittenByColumn := by
  intro i s t e e' h he he'
  obtain rfl := exec_selected h he he'
  by_cases hn : e.err = .none
  · have hecmd : (effect i e).err = e.err → (effect i e).ecmd = e.ecmd := fun h => effect_ecmd_of_err (h.trans hn)
    rw [unlessQuiescent_of_none hn]
    cases i with
    | init m => simp [effect]
    | feed b => simpa +contextual [effect, feedEngine_b0_of_ne, feedEngine_b1_of_ne] using hecmd
    | final => simpa [effect] using hecmd
  · simp [unlessQuiescent_of_err hn]

/-- Settles O48, by R142's induction over the FEEDs (steps_transaction): LEN is the length class of the key. -/
theorem lengthClassTellsPairs : Obligations.LengthClassTellsPairs := by
  intro s t k m key rest e hr hp ht he
  obtain ⟨t', f, ht', hf, hte, -, -⟩ := steps_transaction hr hp
  obtain rfl : t' = t := by simpa [ht'] using ht
  obtain rfl : finalEngine f = e := by simpa [hte] using he
  have hlen : (finalEngine f).len = lenClass key.length := hf.walked.final.len_eq
  rw [hlen]
  exact ⟨lenClass_eq_two, lenClass_eq_three⟩

/-- Settles O56: the invariant of a state with a valid RESULT, and its step lemma State.Inv.step for the reads on record. -/
theorem servedResultIsWalkedHash : Obligations.ServedResultIsWalkedHash := by
  refine ⟨fun s t k e rest hs hp he ht => ?_, fun s t hs ht r hr => ?_⟩
  · obtain ⟨g, f, v, hi, hf, hv, rfl⟩ := step_read_next hp ht
    obtain rfl : f = e := Option.some.inj (hf.symm.trans he)
    obtain rfl : .result = g := Option.some.inj ((congrArg regOfIndex hi).trans (regOfIndex_indexOfReg g))
    obtain ⟨hrv, rfl⟩ := readReg_result_eq_some.mp hv
    exact ⟨rfl, rfl, (hs.engines_inv f (mem_of_engine? he)).valid_result hrv⟩
  · have sound := (hs.step ht).reads_sound r hr
    refine ⟨sound.result, fun hreg => ?_⟩
    rw [sound.status hreg, statusWord_err, statusWord_high]
    exact ⟨errBits_ne_three _, rfl⟩

/-- Settles O27: a command only replaces the registers of the selected engine (onSelected_next). -/
theorem commandTouchesOneEngine : Obligations.CommandTouchesOneEngine := by
  intro i s t h
  rw [exec_eq_onSelected] at h
  obtain ⟨e, -, rfl⟩ := onSelected_next h
  refine ⟨rfl, rfl, rfl, rfl, rfl, rfl, by simp, fun j hj => ?_⟩
  exact setEngine_engine?_of_ne _ _ _ _ hj.symm

/-- Settles O29: a served CMD write is its decoded command (step_cmdWord_of_legal). -/
theorem stepRunsDecodedCommand : Obligations.StepRunsDecodedCommand :=
  fun _ _ _ _ _ hp hw => step_cmdWord_of_legal hp hw

/-- Settles O30: the word placed is a CMD write to the engine selected last, so serving it leaves exec the state as it
was. -/
theorem fetchedWordRunsNext : Obligations.FetchedWordRunsNext :=
  fun _ _ _ h => step_cmdWord_of_legal rfl (decode_of_decodeTableWord h)

/-- Settles O34, field by field. -/
theorem statusLayout : Obligations.StatusLayout := by
  intro e
  have herr : errBits e.err = (match e.err with | .none => 0#2 | .illegal => 1#2 | .seq => 2#2) := by
    cases e.err <;> rfl
  exact ⟨statusWord_phase e, statusWord_mode e, statusWord_len e, statusWord_rv e, (statusWord_err e).trans herr,
    statusWord_oh e, statusWord_high e⟩

/-- Settles O35: each read has its register's value; RESULT without RV has none. -/
theorem registerReadsAnswer : Obligations.RegisterReadsAnswer := by
  intro s k e rest he
  refine ⟨fun hp => step_read_of_value (r := .status) he rfl hp, fun hp hrv => ?_, fun hp hrv => ?_,
    fun hp => step_read_of_value (r := .ecmd) he rfl hp⟩
  · exact step_read_of_value (r := .result) he (readReg_result_eq_some.mpr ⟨hrv, rfl⟩) hp
  · rw [step_read hp]
    simp [readRegister, regOfIndex, readReg, andThen, he, hrv]

/-- Settles O36: the writes are ignored, and a read only records its answer. -/
theorem plainAccessesHaveNoEffect : Obligations.PlainAccessesHaveNoEffect := by
  intro s k e rest he
  refine ⟨fun i w hi hp => ?_, fun hp => step_read_of_value (r := .cmd) he rfl hp, fun i t hp ht => ?_⟩
  · have readOnly (r : Reg) (hr : r ≠ .cmd) : serveAccess (.write k (indexOfReg r) w) (s.withPending rest) = _ :=
      serveAccess_write_readOnly w he hr
    rw [step_cons hp]
    obtain rfl | rfl | rfl := hi
    · exact readOnly .status (by decide)
    · exact readOnly .result (by decide)
    · exact readOnly .ecmd (by decide)
  · obtain ⟨g, f, v, -, -, -, rfl⟩ := step_read_next hp ht
    exact ⟨rfl, rfl, rfl, rfl, rfl, rfl⟩

/-- Settles O37: the register index is looked up first, then the engine. -/
theorem undefinedAccessesAreRefused : Obligations.UndefinedAccessesAreRefused := by
  intro s k i w rest
  refine ⟨fun hi hp => ?_, fun hi hk hp => ?_⟩
  · obtain ⟨hwrite, hread⟩ := serveAccess_noSuchRegister hi k w (s.withPending rest)
    obtain hp | hp := hp
    · exact (step_cons hp).trans hwrite
    · exact (step_cons hp).trans hread
  · obtain ⟨r, rfl⟩ := exists_indexOfReg hi
    have hnone : (s.withPending rest).engine? k = none := engine?_eq_none hk
    obtain ⟨hwrite, hread⟩ := serveAccess_noSuchEngine hnone r w
    obtain hp | hp | hp := hp
    · exact (step_cons hp).trans hwrite
    · exact (step_cons hp).trans hread
    · exact (step_cons hp).trans (serveReset_noSuchEngine hnone)

end Sys2Proof.Machine

/-! PROOFS of the family 20_memory: what a bus access is made of (R57), as the steps a host would take. -/

namespace Sys2Proof.Machine

/-- A register access placed in front of the pending accesses is served next, and leaves them pending. -/
theorem step_access_first (a : Access) (s : State) :
    step (s.withPending (.access a :: s.pending)) = serveAccess a s := rfl

/-- A plan's register write is a step that serves it, then the rest of the plan; a stop of the step stops the plan (R57). -/
theorem servePlan_write (b : BusAccess) (k i : Nat) (w : Word) (p : BusPlan) (s : State) :
    servePlan b (.write k i w p) s =
      andThen (step (s.withPending (.access (.write k i w) :: s.pending))) (servePlan b p) := by
  rw [step_access_first, servePlan]

/-- A plan's register read is answered as a step that serves it is; the rest of the plan goes on with the value that the
step records, and a stop of the step stops the plan (R57). -/
theorem servePlan_read (b : BusAccess) (k i : Nat) (p : Word → BusPlan) (s : State) :
    let o := step (s.withPending (.access (.read k i) :: s.pending))
    (∃ t r, o = .next t ∧ t.reads = s.reads ++ [r] ∧ servePlan b (.read k i p) s = servePlan b (p r.value) t) ∨
    (∃ f, o = .fault f ∧ servePlan b (.read k i p) s = .fault f) ∨
    (∃ r, o = .refused r ∧ servePlan b (.read k i p) s = .refused r) := by
  rw [step_access_first, serveAccess, servePlan]
  cases readRegister k i s with
  | next r => exact .inl ⟨s.recordRead r, r, rfl, rfl, rfl⟩
  | fault f => exact .inr (.inl ⟨f, rfl, rfl⟩)
  | refused r => exact .inr (.inr ⟨r, rfl, rfl⟩)

/-- Settles O38: a step serves what HOST_BUS plans, and each constructor of a plan is a step and the rest (servePlan_write,
servePlan_read) or the bus's own record. -/
theorem busAccessFollowsHostBus : Obligations.BusAccessFollowsHostBus := by
  refine ⟨fun s b rest hp => ?_, fun s b k => ⟨fun latch bytes => rfl, fun i w p => ?_, fun i p => ?_⟩⟩
  · rw [step_cons hp]
    rfl
  · rw [servePlan_write]
    cases step (s.withPending (.access (.write k i w) :: s.pending)) with
    | next t => rfl
    | fault f => rfl
    | refused r => rfl
  · exact servePlan_read b k i p s

end Sys2Proof.Machine

/-! PROOFS of the family 30_encoding: the fields of a command word, decoding seen through them, and the pseudo-commands. -/

namespace Sys2Proof.Machine

/-! ## The fields of a word (R71) -/

/-- A word is its four fields, side by side. -/
theorem append_fieldsOf (w : Word) :
    (fieldsOf w).op ++ ((fieldsOf w).rsv ++ ((fieldsOf w).m ++ (fieldsOf w).byte)) = w := by
  have hlow : w.extractLsb' 8 1 ++ w.extractLsb' 0 8 = w.extractLsb' 0 9 :=
    BitVec.extractLsb'_append_extractLsb'_eq_extractLsb' rfl
  have hmid : w.extractLsb' 9 21 ++ w.extractLsb' 0 9 = w.extractLsb' 0 30 :=
    BitVec.extractLsb'_append_extractLsb'_eq_extractLsb' rfl
  have hall : w.extractLsb' 30 2 ++ w.extractLsb' 0 30 = w.extractLsb' 0 32 :=
    BitVec.extractLsb'_append_extractLsb'_eq_extractLsb' rfl
  simp only [fieldsOf, hlow, hmid, hall, BitVec.extractLsb'_eq_self]

/-- The fields determine the word. -/
theorem fieldsOf_inj {v w : Word} : fieldsOf v = fieldsOf w ↔ v = w := by
  refine ⟨fun h => ?_, congrArg fieldsOf⟩
  rw [← append_fieldsOf v, h, append_fieldsOf]

/-- A mask works field by field. -/
theorem fieldsOf_and (v w : Word) :
    fieldsOf (v &&& w) =
      ⟨(fieldsOf v).op &&& (fieldsOf w).op, (fieldsOf v).rsv &&& (fieldsOf w).rsv,
        (fieldsOf v).m &&& (fieldsOf w).m, (fieldsOf v).byte &&& (fieldsOf w).byte⟩ := by
  simp only [fieldsOf, BitVec.extractLsb'_and]

/-- A two-bit field has one of four values. -/
theorem op_cases (x : BitVec 2) : x = 0#2 ∨ x = 1#2 ∨ x = 2#2 ∨ x = 3#2 := by
  revert x
  decide

/-- The M bit of the mode an M bit selects is that bit (R73). -/
@[simp] theorem modeBit_modeOfBit (m : BitVec 1) : modeBit (modeOfBit m) = m := by
  revert m
  decide

/-! ## The patterns of the opcode map, by field (R74) -/

/-- INIT's pattern under its mask leaves M free. -/
theorem initPattern_iff {w : Word} :
    w &&& 0xFFFFFEFF#32 = 0x40000000#32 ↔ (fieldsOf w).op = 1#2 ∧ (fieldsOf w).rsv = 0#21 ∧ (fieldsOf w).byte = 0#8 := by
  have hmask : fieldsOf 0xFFFFFEFF#32 = ⟨.allOnes 2, .allOnes 21, 0#1, .allOnes 8⟩ := by decide
  have hmatch : fieldsOf 0x40000000#32 = ⟨1#2, 0#21, 0#1, 0#8⟩ := by decide
  rw [← fieldsOf_inj, fieldsOf_and, hmask, hmatch]
  simp only [Fields.mk.injEq, BitVec.and_allOnes, BitVec.and_zero, true_and]

/-- FEED's pattern under its mask leaves BYTE free. -/
theorem feedPattern_iff {w : Word} :
    w &&& 0xFFFFFF00#32 = 0x80000000#32 ↔ (fieldsOf w).op = 2#2 ∧ (fieldsOf w).rsv = 0#21 ∧ (fieldsOf w).m = 0#1 := by
  have hmask : fieldsOf 0xFFFFFF00#32 = ⟨.allOnes 2, .allOnes 21, .allOnes 1, 0#8⟩ := by decide
  have hmatch : fieldsOf 0x80000000#32 = ⟨2#2, 0#21, 0#1, 0#8⟩ := by decide
  rw [← fieldsOf_inj, fieldsOf_and, hmask, hmatch]
  simp only [Fields.mk.injEq, BitVec.and_allOnes, BitVec.and_zero, and_true]

/-- The fields of INIT's word. -/
theorem fieldsOf_encode_init (m : Mode) : fieldsOf (encode (.init m)) = ⟨1#2, 0#21, modeBit m, 0#8⟩ := by
  cases m <;> decide

/-- FEED's word is its byte below fixed high bits. -/
theorem encode_feed_eq_append (b : Byte) : encode (.feed b) = 0x800000#24 ++ b := by
  have hbyte : b.setWidth 32 = 0#24 ++ b := BitVec.setWidth_eq_append (by decide)
  have hmatch : 0x80000000#32 = 0x800000#24 ++ 0#8 := rfl
  rw [encode, hbyte, hmatch, BitVec.or_append, BitVec.or_zero, BitVec.zero_or]

/-- The fields of FEED's word. -/
theorem fieldsOf_encode_feed (b : Byte) : fieldsOf (encode (.feed b)) = ⟨2#2, 0#21, 0#1, b⟩ := by
  rw [encode_feed_eq_append]
  simp [fieldsOf, BitVec.extractLsb'_append_eq_of_le (v := 24) (w := 8),
    BitVec.extractLsb'_append_eq_right (w := 24) (w' := 8)]

/-- The fields of FINAL's word. -/
theorem fieldsOf_encode_final : fieldsOf (encode .final) = ⟨3#2, 0#21, 0#1, 0#8⟩ := by decide

/-! ## Decoding and encoding (R74, R75) -/

/-- A word with INIT's pattern decodes to INIT in the mode of its M bit. -/
theorem decode_of_initPattern {w : Word} (h : w &&& 0xFFFFFEFF#32 = 0x40000000#32) :
    decode w = .legal (.init (modeOfBit (fieldsOf w).m)) := if_pos h

/-- A word with FEED's pattern decodes to FEED of its BYTE field: the patterns do not overlap, since OP differs. -/
theorem decode_of_feedPattern {w : Word} (h : w &&& 0xFFFFFF00#32 = 0x80000000#32) :
    decode w = .legal (.feed (fieldsOf w).byte) := by
  have hinit : ¬ w &&& 0xFFFFFEFF#32 = 0x40000000#32 := by
    rw [initPattern_iff, (feedPattern_iff.mp h).1]
    simp
  exact (if_neg hinit).trans (if_pos h)

/-- A word that decodes to a command is that command's word: in each arm of R75 the pattern and the operand are all four
fields. -/
theorem eq_encode_of_decode {w : Word} {i : Instr} (h : decode w = .legal i) : w = encode i := by
  unfold decode at h
  split at h
  · rename_i hinit
    obtain ⟨hop, hrsv, hbyte⟩ := initPattern_iff.mp hinit
    cases h
    rw [← fieldsOf_inj, fieldsOf_encode_init, modeBit_modeOfBit, ← hop, ← hrsv, ← hbyte]
    rfl
  · split at h
    · rename_i hfeed
      obtain ⟨hop, hrsv, hm⟩ := feedPattern_iff.mp hfeed
      cases h
      rw [← fieldsOf_inj, fieldsOf_encode_feed, ← hop, ← hrsv, ← hm]
      rfl
    · split at h
      · rename_i hfinal
        cases h
        exact hfinal
      · cases h

/-- Settles O1: every command's word decodes to it (decode_encode), and no other word does (eq_encode_of_decode). -/
theorem decodeInvertsEncode : Obligations.DecodeInvertsEncode :=
  fun _ i => ⟨eq_encode_of_decode, fun h => h ▸ decode_encode i⟩

/-- INIT's words have INIT's pattern. -/
theorem encode_init_pattern (m : Mode) : encode (.init m) &&& 0xFFFFFEFF#32 = 0x40000000#32 := by
  rw [initPattern_iff, fieldsOf_encode_init]
  exact ⟨rfl, rfl, rfl⟩

/-- FEED's words have FEED's pattern. -/
theorem encode_feed_pattern (b : Byte) : encode (.feed b) &&& 0xFFFFFF00#32 = 0x80000000#32 := by
  rw [feedPattern_iff, fieldsOf_encode_feed]
  exact ⟨rfl, rfl, rfl⟩

/-- R74's list of the commands' words. -/
theorem exists_eq_encode_iff (w : Word) :
    (∃ i, w = encode i) ↔
      w = 0x40000000#32 ∨ w = 0x40000100#32 ∨ (∃ b : Byte, w = 0x80000000#32 ||| b.setWidth 32) ∨ w = 0xC0000000#32 := by
  constructor
  · rintro ⟨i, rfl⟩
    match i with
    | .init .std => exact .inl rfl
    | .init .legacy => exact .inr (.inl rfl)
    | .feed b => exact .inr (.inr (.inl ⟨b, rfl⟩))
    | .final => exact .inr (.inr (.inr rfl))
  · rintro (rfl | rfl | ⟨b, rfl⟩ | rfl)
    · exact ⟨.init .std, rfl⟩
    · exact ⟨.init .legacy, rfl⟩
    · exact ⟨.feed b, rfl⟩
    · exact ⟨.final, rfl⟩

/-- Settles O2: the words with a pattern decode to its command, and the words that decode to it are its encodings, which have
the pattern. -/
theorem commandPatternsAreExact : Obligations.CommandPatternsAreExact := by
  refine ⟨fun w => ⟨?_, fun h => ⟨_, decode_of_initPattern h⟩⟩, fun w => ⟨?_, fun h => ⟨_, decode_of_feedPattern h⟩⟩,
    fun w => ?_, fun w => (exists_congr (decodeInvertsEncode w)).trans (exists_eq_encode_iff w)⟩
  · rintro ⟨m, hm⟩
    exact eq_encode_of_decode hm ▸ encode_init_pattern m
  · rintro ⟨b, hb⟩
    exact eq_encode_of_decode hb ▸ encode_feed_pattern b
  · have hmask : w &&& 0xFFFFFFFF#32 = w := BitVec.and_allOnes
    rw [hmask]
    exact decodeInvertsEncode w .final

/-! ## Illegal words (R76) -/

/-- The fields break one of the four lines of R76. -/
theorem wellFormed_eq_false_iff (f : Fields) :
    f.wellFormed = false ↔
      f.op = 0#2 ∨ f.rsv ≠ 0#21 ∨ ((f.op = 2#2 ∨ f.op = 3#2) ∧ f.m = 1#1) ∨ ((f.op = 1#2 ∨ f.op = 3#2) ∧ f.byte ≠ 0#8) := by
  have hm : f.m ≠ 0#1 ↔ f.m = 1#1 := by
    obtain h | h := BitVec.eq_zero_or_eq_one f.m <;> simp [h]
  obtain h | h | h | h := op_cases f.op
  all_goals
    simp only [Fields.wellFormed, Fields.opLegal, Fields.rsvLegal, Fields.modeLegal, Fields.byteLegal, ← hm, h]
    simp [imp_iff_not_or, or_assoc]

/-- The word of every command has well-formed fields (R71). -/
theorem fieldsOf_encode_wellFormed (i : Instr) : (fieldsOf (encode i)).wellFormed = true := by
  cases i with
  | init m => exact Laws.EncodingWellFormed.init m
  | feed b => exact Laws.EncodingWellFormed.feed b
  | final => exact Laws.EncodingWellFormed.final

/-- A word with well-formed fields is a command, which OP names. -/
theorem exists_decode_of_wellFormed {w : Word} (h : (fieldsOf w).wellFormed = true) : ∃ i, decode w = .legal i := by
  have hf := (wellFormed_eq_false_iff (fieldsOf w)).not.mp (by simp [h])
  push Not at hf
  obtain ⟨hop0, hrsv, hm, hbyte⟩ := hf
  obtain hop | hop | hop | hop := op_cases (fieldsOf w).op
  · exact absurd hop hop0
  · exact ⟨_, decode_of_initPattern (initPattern_iff.mpr ⟨hop, hrsv, hbyte (.inl hop)⟩)⟩
  · have hm0 := (BitVec.eq_zero_or_eq_one (fieldsOf w).m).resolve_right (hm (.inl hop))
    exact ⟨_, decode_of_feedPattern (feedPattern_iff.mpr ⟨hop, hrsv, hm0⟩)⟩
  · have hm0 := (BitVec.eq_zero_or_eq_one (fieldsOf w).m).resolve_right (hm (.inr hop))
    have hfinal : w = encode .final := by
      rw [← fieldsOf_inj, fieldsOf_encode_final, ← hop, ← hrsv, ← hm0, ← hbyte (.inr hop)]
    exact ⟨.final, hfinal ▸ decode_encode .final⟩

/-- The illegal words are those whose fields are not well-formed. -/
theorem decode_illegal_iff (w : Word) : (∃ why, decode w = .illegal why) ↔ (fieldsOf w).wellFormed = false := by
  cases h : decode w with
  | legal i => simp [eq_encode_of_decode h, fieldsOf_encode_wellFormed]
  | illegal why =>
    have hf : ¬ (fieldsOf w).wellFormed = true := fun hf => by
      obtain ⟨i, hi⟩ := exists_decode_of_wellFormed hf
      cases h.symm.trans hi
    simpa using hf

/-- Settles O3: the illegal words are those with fields that are not well-formed, and these break a line of R76. -/
theorem illegalWordsByField : Obligations.IllegalWordsByField :=
  fun w => (decode_illegal_iff w).trans (wellFormed_eq_false_iff (fieldsOf w))

/-- Settles O4: the legal words are encodings, and each of the others is evaluated. -/
theorem sampleWordsDecode : Obligations.SampleWordsDecode :=
  ⟨decode_encode (.init .std), decode_encode (.init .legacy), decode_encode (.feed 0x61#8), decode_encode .final,
    by decide, by decide, by decide, by decide⟩

/-! ## Assembler text (R77) -/

/-- Two hexadecimal digits make a byte of both halves. -/
theorem ofNat_hexPair (h l : Fin 16) :
    BitVec.ofNat 8 h <<< 4 ||| BitVec.ofNat 8 l = BitVec.ofNat 8 (16 * h.val + l.val) := by
  revert h l
  decide

/-- The operand 0xHH is the byte of its two digits, upper half first. -/
theorem asmByte_hex {H L : Char} {h l : Fin 16} (hH : hexDigit H = some (BitVec.ofNat 8 h))
    (hL : hexDigit L = some (BitVec.ofNat 8 l)) :
    asmByte ['0', 'x', H, L] = some (BitVec.ofNat 8 (16 * h.val + l.val)) := by
  simp [asmByte, hH, hL, ofNat_hexPair]

/-- A digit of either case stands for its value. -/
theorem hexDigit_of_mem {c : Char} {h : Fin 16} (hc : c ∈ [Nat.digitChar h, (Nat.digitChar h).toUpper]) :
    hexDigit c = some (BitVec.ofNat 8 h) := by
  obtain ⟨hlower, hupper⟩ := hexDigit_digitChar h
  obtain rfl | rfl := List.mem_pair.mp hc
  · exact hlower
  · exact hupper

/-- A quoted ASCII character is its code. -/
theorem asmByte_quoted {c : Char} (hc : c.toNat < 128) :
    asmByte ['\'', c, '\''] = some (BitVec.ofNat 8 c.toNat) := if_pos hc

/-- A FEED line feeds the byte of its operand. -/
theorem asmLine_feed {operand : List Char} {b : Byte} (h : asmByte operand = some b) :
    asmLine ('F' :: 'E' :: 'E' :: 'D' :: ' ' :: operand) = some (.command (.feed b)) := by
  simp [asmLine, h]

/-- Settles O5: FEED's text by its operand (asmByte_hex, asmByte_quoted), and every other line by its characters. -/
theorem assemblerLinesSpellAccesses : Obligations.AssemblerLinesSpellAccesses :=
  ⟨rfl, rfl, fun _ _ _ hH _ hL => asmLine_feed (asmByte_hex (hexDigit_of_mem hH) (hexDigit_of_mem hL)),
    fun _ hc => asmLine_feed (asmByte_quoted hc), rfl, rfl, rfl, rfl,
    fun _ => ⟨rfl, rfl, fun _ => rfl, rfl, rfl, rfl, rfl⟩⟩

/-! ## The pseudo-commands (R78) -/

theorem hashCommand_length (k : Nat) (m : Mode) (key : List Byte) : (hashCommand k m key).length = key.length + 3 := by
  simp [hashCommand, transaction_eq_map]

/-- FINAL on an engine that tracks a key makes its hash the readable RESULT (R25, R137, R142). -/
theorem Engine.Tracks.readReg_final {m : Mode} {key : List Byte} {e : Engine} (h : e.Tracks m key) :
    readReg .result (finalEngine e) = some (hashOf m key) := by
  rw [readReg_result_eq_some, finalEngine_of_active e h.phase_eq, outMux_of_walked h.walked, h.mode_eq]
  exact ⟨rfl, rfl⟩

/-- A pseudo-command of a ready engine completes, and its read returns the hash of the key (R78). -/
theorem steps_hashCommand {s : State} {k : Nat} {m : Mode} {key : List Byte} {rest : List HostOp} (hr : s.Ready k)
    (hp : s.pending = hashCommand k m key ++ rest) :
    ∃ t e, steps (key.length + 3) s = .next t ∧ t.pending = rest ∧ t.engine? k = some e ∧
      t.reads = s.reads ++ [{ engine := k, reg := .result, value := hashOf m key, source := e }] := by
  rw [hashCommand, List.append_assoc] at hp
  obtain ⟨u, f, hu, hf, hue, hup, hur⟩ := steps_transaction hr hp
  have hread := step_read_of_value hue hf.readReg_final hup
  have hrun : steps (key.length + 2 + 1) s = steps 0 _ := (steps_add hu).trans (steps_succ_of_next hread)
  exact ⟨_, finalEngine f, hrun, rfl, hue, by rw [hur]⟩

/-- Settles O46: the pseudo-command of each mode reads the mode's function of the key (steps_hashCommand). -/
theorem hashCommandReturnsFunction : Obligations.HashCommandReturnsFunction :=
  fun _ k key _ hr =>
    ⟨fun m => hashCommand_length k m key, fun hp => steps_hashCommand hr hp, fun hp => steps_hashCommand hr hp⟩

end Sys2Proof.Machine

/-! PROOFS of the family 40_table_walk: the table is a linear image of its index (R101, R104), a walk step is eight rounds of
the bit-serial register (R105, R107), and the commands that drive the walk (R110, R111). -/

namespace Sys2Proof.Machine

/-! ## The table -/

/-- TABLE is linear over GF(2), because each round of its procedure is (R104). -/
theorem tableRead_xor (i j : Byte) : tableRead (i ^^^ j) = tableRead i ^^^ tableRead j := by
  simp only [tableRead, BitVec.setWidth_xor, crcBits_xor]

/-- The kernel of the linear map from an index to its entry's top byte: only entry 0 has a zero top byte. -/
theorem eq_zero_of_tableRead_top {i : Byte} (h : (tableRead i).extractLsb' 24 8 = 0#8) : i = 0#8 := by
  revert i
  decide +kernel

/-- The top bytes of the entries differ: by linearity two equal ones make the entry of i ⊕ j have a zero top byte (R104). -/
theorem tableRead_top_inj {i j : Byte} (h : (tableRead i).extractLsb' 24 8 = (tableRead j).extractLsb' 24 8) : i = j := by
  have hxor : (tableRead (i ^^^ j)).extractLsb' 24 8 = 0#8 := by
    rw [tableRead_xor, BitVec.extractLsb'_xor, h, BitVec.xor_self]
  exact BitVec.xor_eq_zero_iff.mp (eq_zero_of_tableRead_top hxor)

/-- R102's listing is R101's procedure run over the 256 indices in order. -/
theorem tableListing_eq_map : tableListing = (List.range 256).map fun n => tableRead (BitVec.ofNat 8 n) := by
  decide +kernel

/-! ## The walk step -/

/-- Masking a word to its low byte and narrowing it is narrowing it (R8). -/
theorem setWidth_mask_byte (x : Word) : ((x &&& 0xFF#32).setWidth 8 : Byte) = x.setWidth 8 := by
  have hmask : (0xFF#32).setWidth 8 = BitVec.allOnes 8 := rfl
  rw [BitVec.setWidth_and, hmask, BitVec.and_allOnes]

/-- The table index is the register's low byte ⊕ the key byte (R105). -/
theorem tableIndex_eq_xor (c : Word) (b : Byte) : tableIndex c b = c.setWidth 8 ^^^ b := by
  rw [tableIndex, setWidth_mask_byte, zext32, BitVec.setWidth_xor, BitVec.setWidth_setWidth_of_le _ (by decide),
    BitVec.setWidth_eq]

/-- A shift by a byte leaves the top byte zero (R105). -/
theorem ushiftRight_top (c : Word) : (c >>> 8).extractLsb' 24 8 = 0#8 := by
  ext i hi
  simpa using BitVec.getLsbD_of_ge c (8 + (24 + i)) (by omega)

/-- While the bits shifted out are zero a round of the loop is a plain shift. -/
theorem crcBits_of_low_zero {n : Nat} {x : Word} (h : ∀ i < n, x.getLsbD i = false) : crcBits n x = x >>> n := by
  induction n generalizing x with
  | zero => simp [crcBits]
  | succ n ih =>
    have hround : crcBit x = x >>> 1 := if_neg (ne_true_of_eq_false (h 0 n.succ_pos))
    have hrest : ∀ i < n, (x >>> 1).getLsbD i = false := fun i hi => by
      simpa [Nat.add_comm 1 i] using h (i + 1) (Nat.succ_lt_succ hi)
    rw [crcBits, hround, ih hrest, ← BitVec.shiftRight_add, Nat.add_comm]

/-- A key byte, widened, lies below the bits that a shift by a byte keeps. -/
theorem zext32_ushiftRight (b : Byte) : zext32 b >>> 8 = 0#32 := by
  ext i hi
  simp [zext32]

/-- Eight rounds on a word are the table entry of its low byte ⊕ the rest of it shifted down: by linearity the low byte's
rounds split off, and the rounds on the rest only shift (R107). -/
theorem crcBits_eight (x : Word) : crcBits 8 x = tableRead (x.setWidth 8) ^^^ (x >>> 8) := by
  have hlow : ∀ i < 8, (x ^^^ zext32 (x.setWidth 8)).getLsbD i = false := fun i hi => by
    have : i < 32 := by omega
    simp [zext32, hi, this]
  calc crcBits 8 x
      = crcBits 8 (zext32 (x.setWidth 8) ^^^ (x ^^^ zext32 (x.setWidth 8))) := by
        rw [BitVec.xor_comm x, ← BitVec.xor_assoc, BitVec.xor_self, BitVec.zero_xor]
    _ = tableRead (x.setWidth 8) ^^^ ((x ^^^ zext32 (x.setWidth 8)) >>> 8) := by
        rw [crcBits_xor, crcBits_of_low_zero hlow, tableRead, zext32]
    _ = tableRead (x.setWidth 8) ^^^ (x >>> 8) := by
        rw [BitVec.ushiftRight_xor_distrib, zext32_ushiftRight, BitVec.xor_zero]

/-- A walk step is eight rounds of the bit-serial register (R107). -/
theorem crcStep_eq_crcBits (c : Word) (b : Byte) : crcStep c b = crcBits 8 (c ^^^ zext32 b) := by
  rw [crcBits_eight, crcStep, tableIndex, setWidth_mask_byte, BitVec.ushiftRight_xor_distrib, zext32_ushiftRight,
    BitVec.xor_zero]

/-! ## The commands -/

/-- A command on an engine without error completes with its register effect. -/
theorem exec_of_err_none (i : Instr) {s : State} {e : Engine} (he : s.engine? s.sel = some e) (herr : e.err = .none) :
    exec i s = .next (s.setEngine s.sel (effect i e)) := by
  rw [exec_eq_onSelected, onSelected_of_engine? _ he, unlessQuiescent_of_none herr]

theorem lenClass_toNat (n : Nat) : (lenClass n).toNat = min n 3 := by
  rw [lenClass, BitVec.toNat_ofNat, Nat.mod_eq_of_lt (by omega)]

/-! ## The statements -/

/-- Settles O7: TABLE's map is linear (tableRead_xor), and its top byte already has no kernel (tableRead_top_inj). -/
theorem tableIsLinearAndInjective : Obligations.TableIsLinearAndInjective :=
  ⟨rfl, rfl, rfl, tableRead_xor, rfl, fun _ _ h => tableRead_top_inj (congrArg _ h), fun _ _ => tableRead_top_inj⟩

/-- Settles O9: the step is eight rounds of R101's loop (crcStep_eq_crcBits), which are R107's eight bit-serial steps. -/
theorem walkStepIsEightBitSteps : Obligations.WalkStepIsEightBitSteps := by
  intro c b
  rw [crcStep_eq_crcBits]
  rfl

/-- Settles O11, by induction on the key: each byte reads one entry, and the register goes on from it. -/
theorem walkReadsOneEntryPerByte : Obligations.WalkReadsOneEntryPerByte := by
  intro c key
  induction key generalizing c with
  | nil => exact ⟨rfl, rfl⟩
  | cons b key ih =>
    obtain ⟨hlen, hwalk⟩ := ih (crcStep c b)
    exact ⟨congrArg (· + 1) hlen, hwalk⟩

/-- Settles O44: the host's writes run the commands' effects in order (steps_cmdWrites), and these track the key
(runEffects_init_feeds_tracks, R142's induction). -/
theorem feedsTrackTheKey : Obligations.FeedsTrackTheKey := by
  intro s k m key rest hr hp
  obtain ⟨e, he, herr⟩ := hr
  have hcmds : s.pending = (Instr.init m :: key.map .feed).map (cmdWrite k) ++ rest := by
    simpa [Function.comp_def] using hp
  obtain ⟨t, ht, hte, htp, -⟩ := steps_cmdWrites he hcmds
  obtain ⟨hphase, hmode, hrv, herr', hcrc, hlen, hb0, hb1⟩ := runEffects_init_feeds_tracks m key herr
  refine ⟨t, _, by simpa using ht, hte, htp, hphase, hmode, hrv, herr', hcrc, ?_, hb0, hb1⟩
  rw [hlen, lenClass_toNat]

/-- Settles O6: the listing is the procedure's image of the indices in order (tableListing_eq_map). -/
theorem tableMatchesListing : Obligations.TableMatchesListing := by
  refine ⟨by rw [tableListing_eq_map, List.length_map, List.length_range], fun i => ?_⟩
  rw [tableListing_eq_map, List.getElem?_map, List.getElem?_range i.isLt, Option.map_some, BitVec.ofNat_toNat,
    BitVec.setWidth_eq]

/-- Settles O8: the step is R105's update by definition; the index is the low bytes' ⊕ (tableIndex_eq_xor), and the shifted
register adds nothing to the entry's top byte (ushiftRight_top). -/
theorem walkStepIsTableUpdate : Obligations.WalkStepIsTableUpdate := by
  intro c b
  refine ⟨rfl, ?_, ushiftRight_top c, ?_⟩
  · rw [tableIndex_eq_xor, BitVec.setWidth_eq_extractLsb' (by decide)]
  · rw [crcStep, BitVec.extractLsb'_xor, ushiftRight_top, BitVec.xor_zero]

/-- Settles O10: Acc is a left fold over the key. -/
theorem walkOfConcatenation : Obligations.WalkOfConcatenation :=
  fun _ _ => List.foldl_append

/-- Settles O12: narrowing to the index drops every bit in which the two widenings differ. -/
theorem signedByteSameIndex : Obligations.SignedByteSameIndex := by
  intro c b
  have hb : (b.signExtend 32).setWidth 8 = b := by
    ext i hi
    have h32 : i < 32 := by omega
    rw [BitVec.getElem_setWidth, BitVec.getLsbD_signExtend]
    simp [hi, h32]
  rw [setWidth_mask_byte, tableIndex_eq_xor, BitVec.setWidth_xor, hb]

/-- Settles O21: INIT's effect on an engine without error (exec_of_err_none). -/
theorem initOpensTransaction : Obligations.InitOpensTransaction :=
  fun _ _ m he herr => exec_of_err_none (.init m) he herr

/-- Settles O22: FEED's effect on an engine without error (exec_of_err_none), which is ACTIVE (feedEngine_of_active). -/
theorem feedWalksOneByte : Obligations.FeedWalksOneByte := by
  intro s e b he herr hactive
  rw [exec_of_err_none (.feed b) he herr, effect, feedEngine_of_active b e hactive]
  rfl

end Sys2Proof.Machine

/-! PROOFS of the family 41_finalize_override: rounds of the table procedure are bijective, and four-byte keys are words
(R138); the finalisations, the override matcher and the output mux (R130 to R136); and what FINAL leaves at the end of a
transaction (R137, R140 to R146). -/

namespace Sys2Proof.Machine

/-! ## The walk of a word's bytes, and its inverse (R107, R138) -/

/-- Only 0 goes to 0 in a round: POLY's top bit is set, and the right shift clears its own. -/
theorem eq_zero_of_crcBit {x : Word} (h : crcBit x = 0#32) : x = 0#32 := by
  cases h0 : x.getLsbD 0 with
  | true =>
    have htop : (crcBit x).getLsbD 31 = true := by
      rw [crcBit, if_pos h0, BitVec.getLsbD_xor, BitVec.getLsbD_ushiftRight, BitVec.getLsbD_of_ge x _ (by decide)]
      rfl
    simp [h] at htop
  | false =>
    have hshift : x >>> 1 = 0#32 := by rwa [crcBit, if_neg (ne_true_of_eq_false h0)] at h
    refine BitVec.eq_of_getLsbD_eq fun i hi => ?_
    match i with
    | 0 => exact h0
    | i + 1 => simpa [Nat.add_comm 1 i] using congrArg (·.getLsbD i) hshift

/-- A round is injective: by linearity two equal images make the difference's image 0. -/
theorem crcBit_injective : Function.Injective crcBit := fun x y h =>
  BitVec.xor_eq_zero_iff.mp (eq_zero_of_crcBit (by rw [crcBit_xor, h, BitVec.xor_self]))

theorem crcBits_injective (n : Nat) : Function.Injective (crcBits n) := by
  induction n with
  | zero => exact Function.injective_id
  | succ n ih => exact ih.comp crcBit_injective

/-- Rounds reach every word, as an injective map of the finite set of words. -/
theorem crcBits_surjective (n : Nat) : Function.Surjective (crcBits n) :=
  Finite.injective_iff_surjective.mp (crcBits_injective n)

/-- Rounds add up. -/
theorem crcBits_add (m n : Nat) (x : Word) : crcBits (m + n) x = crcBits n (crcBits m x) := by
  induction m generalizing x with
  | zero => simp [crcBits]
  | succ m ih => rw [Nat.succ_add, crcBits, ih, crcBits]

/-- The n low bytes of a word as a key, the lowest first. -/
def lowBytes : Nat → Word → List Byte
  | 0, _     => []
  | n + 1, w => w.setWidth 8 :: lowBytes n (w >>> 8)

@[simp] theorem lowBytes_length (n : Nat) (w : Word) : (lowBytes n w).length = n := by
  induction n generalizing w with
  | zero => rfl
  | succ n ih => rw [lowBytes, List.length_cons, ih]

/-- Walking a word's low byte, the word's other bytes waiting above it, is eight rounds on the register ⊕ the word. -/
theorem crcStep_low_xor (c w : Word) : crcStep c (w.setWidth 8) ^^^ (w >>> 8) = crcBits 8 (c ^^^ w) := by
  rw [crcBits_eight, crcStep, tableIndex_eq_xor, BitVec.setWidth_xor, BitVec.ushiftRight_xor_distrib, BitVec.xor_assoc]

/-- Walking a word's n low bytes is 8n rounds on the register ⊕ the word. -/
theorem walk_lowBytes_xor (n : Nat) (c w : Word) :
    (lowBytes n w).foldl crcStep c ^^^ (w >>> (8 * n)) = crcBits (8 * n) (c ^^^ w) := by
  induction n generalizing c w with
  | zero => simp [lowBytes, crcBits]
  | succ n ih =>
    calc (lowBytes (n + 1) w).foldl crcStep c ^^^ (w >>> (8 * (n + 1)))
        = (lowBytes n (w >>> 8)).foldl crcStep (crcStep c (w.setWidth 8)) ^^^ ((w >>> 8) >>> (8 * n)) := by
          rw [← BitVec.shiftRight_add, Nat.mul_succ, Nat.add_comm (8 * n)]
          rfl
      _ = crcBits (8 * (n + 1)) (c ^^^ w) := by
          rw [ih, crcStep_low_xor, ← crcBits_add, Nat.mul_succ, Nat.add_comm (8 * n)]

/-- Acc of a four-byte key is 32 rounds on CRC_INIT ⊕ the key's word. -/
theorem acc_lowBytes_four (w : Word) : acc (lowBytes 4 w) = crcBits 32 (crcInit ^^^ w) := by
  have h := walk_lowBytes_xor 4 crcInit w
  rwa [BitVec.ushiftRight_eq_zero (by decide), BitVec.xor_zero] at h

/-- The four bytes of a word, by their bits. -/
theorem lowBytes_four (w : Word) :
    lowBytes 4 w = [w.extractLsb' 0 8, w.extractLsb' 8 8, w.extractLsb' 16 8, w.extractLsb' 24 8] := by
  simp only [lowBytes, ← BitVec.shiftRight_add, BitVec.setWidth_ushiftRight_eq_extractLsb]
  rw [BitVec.setWidth_eq_extractLsb' (by decide)]

/-- Bits above an appended byte are bits of what it was appended to. -/
theorem extractLsb'_append_byte {n : Nat} (x : BitVec n) (b : Byte) (start : Nat) :
    (x ++ b).extractLsb' (start + 8) 8 = x.extractLsb' start 8 := by
  rw [BitVec.extractLsb'_append_eq_of_le (Nat.le_add_left 8 start), Nat.add_sub_cancel]

/-- Every four-byte key is a word's bytes. -/
theorem exists_eq_lowBytes_four {key : List Byte} (h : key.length = 4) : ∃ w, key = lowBytes 4 w := by
  match key, h with
  | [a, b, c, d], _ =>
    have ha : (d ++ c ++ b ++ a).extractLsb' 0 8 = a := BitVec.extractLsb'_append_eq_right
    have hb : (d ++ c ++ b ++ a).extractLsb' 8 8 = b :=
      (extractLsb'_append_byte _ a 0).trans BitVec.extractLsb'_append_eq_right
    have hc : (d ++ c ++ b ++ a).extractLsb' 16 8 = c :=
      (extractLsb'_append_byte _ a 8).trans <|
        (extractLsb'_append_byte _ b 0).trans BitVec.extractLsb'_append_eq_right
    have hd : (d ++ c ++ b ++ a).extractLsb' 24 8 = d :=
      (extractLsb'_append_byte _ a 16).trans <|
        (extractLsb'_append_byte _ b 8).trans BitVec.extractLsb'_append_eq_left
    exact ⟨d ++ c ++ b ++ a, by rw [lowBytes_four, ha, hb, hc, hd]⟩

/-! ## The finalisations (R130 to R132) -/

theorem stdFinal_injective : Function.Injective stdFinal := fun _ _ h => BitVec.not_inj.mp h

theorem legGenFinal_toNat_le (c : Word) : (legGenFinal c).toNat ≤ 32767 := by
  rw [legGenFinal, BitVec.toNat_and]
  exact Nat.and_le_right

/-! ## The override matcher and the output mux (R133 to R136) -/

/-- No code has a byte of 0x80 or above (R133 (d)): the four given ones have both top bits clear. -/
theorem ovrLookup_of_top_bit {k : BitVec 16} (h : (k.getLsbD 15 || k.getLsbD 7) = true) : ovrLookup k = none := by
  have hne {c : BitVec 16} (hc : (c.getLsbD 15 || c.getLsbD 7) = false) : k ≠ c := by
    rintro rfl
    exact Bool.false_ne_true (hc.symm.trans h)
  rw [ovrLookup, if_neg (hne rfl), if_neg (hne rfl), if_neg (hne rfl), if_neg (hne rfl), if_pos h]

/-- A byte of 0x80 or above has its top bit set. -/
theorem getLsbD_seven_of_le {b : Byte} (h : 0x80#8 ≤ b) : b.getLsbD 7 = true := by
  revert b
  decide

/-- The mux depends on the matcher's answer for {B0, B1} alone, and on that only in LEGACY with LEN = 2 (R135). -/
theorem outMuxWith_congr {f g : BitVec 16 → Option Word} {mode : Mode} {len : BitVec 2} {b0 b1 : Byte} (c : Word)
    (h : mode = .legacy → len = 2#2 → f (ovrKey b0 b1) = g (ovrKey b0 b1)) :
    outMuxWith f mode len b0 b1 c = outMuxWith g mode len b0 b1 c := by
  cases mode with
  | std => rfl
  | legacy =>
    by_cases hlen : len = 2#2
    · rw [hlen, outMuxWith_pair, outMuxWith_pair, h rfl hlen]
    · rw [outMuxWith_generic f _ _ _ hlen, outMuxWith_generic g _ _ _ hlen]

/-- A hit in LEGACY with LEN = 2 is the output (R136). -/
theorem outMuxWith_hit {f : BitVec 16 → Option Word} {b0 b1 : Byte} {v : Word} (h : f (ovrKey b0 b1) = some v) (c : Word) :
    outMuxWith f .legacy 2#2 b0 b1 c = (v, true) := by
  rw [outMuxWith_pair, h]

/-- A miss in LEGACY takes the generic path, whatever LEN is (R136). -/
theorem outMuxWith_miss {f : BitVec 16 → Option Word} {b0 b1 : Byte} (h : f (ovrKey b0 b1) = none) (len : BitVec 2)
    (c : Word) : outMuxWith f .legacy len b0 b1 c = (legGenFinal c, false) := by
  by_cases hlen : len = 2#2
  · rw [hlen, outMuxWith_pair, h]
  · exact outMuxWith_generic f b0 b1 c hlen

/-! ## The source's functions (R140, R141) -/

/-- A key with an override value has it as its LEGACY hash, by the override path (R141). -/
theorem legacy_of_overrideOf_some {key : List Byte} {v : Word} (h : overrideOf key = some v) :
    hashOf .legacy key = v ∧ overrideHit .legacy key = true := by
  simp [hashOf, legacyShardHash, overrideHit, h]

/-- A key without an override value has the generic value as its LEGACY hash (R141). -/
theorem legacy_of_overrideOf_none {key : List Byte} (h : overrideOf key = none) :
    hashOf .legacy key = legGenFinal (acc key) ∧ overrideHit .legacy key = false := by
  simp [hashOf, legacyShardHash, overrideHit, h]

/-! ## The end of a transaction (R137, R142) -/

/-- The registers that R142 gives after a transaction of mode m on this key. -/
structure Engine.Finished (m : Mode) (key : List Byte) (e : Engine) : Prop where
  phase_eq  : e.phase = .idle
  mode_eq   : e.mode = m
  len_eq    : e.len = lenClass key.length
  rv_eq     : e.rv = true
  err_eq    : e.err = .none
  oh_eq     : e.oh = overrideHit m key
  result_eq : e.result = hashOf m key

/-- FINAL finishes the transaction of an engine that tracks a key: the mux's choice is the source's (outMux_of_walked). -/
theorem Engine.Tracks.final {m : Mode} {key : List Byte} {e : Engine} (h : e.Tracks m key) :
    (finalEngine e).Finished m key := by
  rw [finalEngine_of_active e h.phase_eq, outMux_of_walked h.walked, h.mode_eq]
  exact ⟨rfl, rfl, h.walked.len_eq, rfl, h.err_eq, rfl, rfl⟩

/-- A transaction of a ready engine completes and finishes (R139, R142). -/
theorem steps_transaction_finished {s : State} {k : Nat} {m : Mode} {key : List Byte} {rest : List HostOp}
    (hr : s.Ready k) (hp : s.pending = transaction k m key ++ rest) :
    ∃ t e, steps (key.length + 2) s = .next t ∧ t.engine? k = some e ∧ t.pending = rest ∧ e.Finished m key := by
  obtain ⟨t, f, ht, hf, hte, htp, -⟩ := steps_transaction hr hp
  exact ⟨t, finalEngine f, ht, hte, htp, hf.final⟩

/-- However a run of a transaction was obtained, its engine is finished at the end. -/
theorem finished_of_steps_transaction {s t : State} {k : Nat} {m : Mode} {key : List Byte} {rest : List HostOp}
    {e : Engine} (hr : s.Ready k) (hp : s.pending = transaction k m key ++ rest)
    (ht : steps (key.length + 2) s = .next t) (he : t.engine? k = some e) : e.Finished m key := by
  obtain ⟨t', e', ht', he', -, hfin⟩ := steps_transaction_finished hr hp
  obtain rfl : t' = t := by simpa [ht'] using ht
  obtain rfl : e' = e := by simpa [he'] using he
  exact hfin

/-! ## The statements -/

/-- Settles O55: each access keeps the invariant (State.Inv.step), by its cases: a command word on its engine, an ignored
write, a read, the accesses of a bus plan, a reset. -/
theorem stepKeepsInvariant : Obligations.StepKeepsInvariant :=
  fun _ _ hs ht => hs.step ht

/-- Settles O13: a four-byte key's CRC is a bijection of its word (acc_lowBytes_four), 32 rounds being injective and
surjective. -/
theorem standardCrcReachesEveryWord : Obligations.StandardCrcReachesEveryWord := by
  intro v
  obtain ⟨x, hx⟩ := crcBits_surjective 32 (~~~v)
  have hcrc : standardCrc32 (lowBytes 4 (crcInit ^^^ x)) = v := by
    rw [standardCrc32, acc_lowBytes_four, ← BitVec.xor_assoc, BitVec.xor_self, BitVec.zero_xor, hx, stdFinal,
      BitVec.not_not]
  refine ⟨_, ⟨lowBytes_length 4 _, hcrc⟩, ?_⟩
  rintro key ⟨hlen, hkey⟩
  obtain ⟨w, rfl⟩ := exists_eq_lowBytes_four hlen
  have hacc : acc (lowBytes 4 w) = acc (lowBytes 4 (crcInit ^^^ x)) := stdFinal_injective (hkey.trans hcrc.symm)
  rw [acc_lowBytes_four, acc_lowBytes_four] at hacc
  rw [(BitVec.xor_right_inj crcInit).mp (crcBits_injective 32 hacc)]

/-- Settles O45: the transaction finishes (steps_transaction_finished) with the source's function of its key, which each
clause writes out. -/
theorem transactionComputesHash : Obligations.TransactionComputesHash := by
  intro s k m key rest hr hp
  obtain ⟨t, e, ht, he, htp, hphase, hmode, hlen, hrv, herr, hoh, hres⟩ := steps_transaction_finished hr hp
  refine ⟨t, e, ht, he, htp, ?_, ?_, ?_, ?_, hrv, hphase, by rw [hlen, lenClass_toNat], hmode, herr⟩
  · rintro rfl
    exact ⟨hres, hoh⟩
  · rintro rfl rfl
    exact hres.trans (by decide)
  · rintro b0 b1 v rfl rfl hv
    rw [hres, hoh]
    exact legacy_of_overrideOf_some hv
  · rintro rfl hmiss
    have hnone : overrideOf key = none := by
      obtain hne | ⟨b0, b1, rfl, hv⟩ := hmiss
      · exact overrideOf_eq_none hne
      · exact hv
    rw [hres, hoh]
    exact legacy_of_overrideOf_none hnone

/-- Settles O47: the registers read are those of a finished engine, which the mode and the key determine. -/
theorem transactionIndependentOfHistory : Obligations.TransactionIndependentOfHistory := by
  intro s s' t t' k k' m key rest rest' e e' hr hr' hp hp' ht ht' he he'
  have h := finished_of_steps_transaction hr hp ht he
  have h' := finished_of_steps_transaction hr' hp' ht' he'
  refine ⟨h.result_eq.trans h'.result_eq.symm, h.oh_eq.trans h'.oh_eq.symm, ?_⟩
  simp only [statusWord, h.phase_eq, h.mode_eq, h.len_eq, h.rv_eq, h.err_eq, h.oh_eq,
    h'.phase_eq, h'.mode_eq, h'.len_eq, h'.rv_eq, h'.err_eq, h'.oh_eq]

/-- Settles O49: the finished transaction has the key's override value; the generic value of "us" is evaluated. -/
theorem overrideTakesPrecedence : Obligations.OverrideTakesPrecedence := by
  refine ⟨fun s k b0 b1 v rest hr hv hp => ?_, by decide +kernel, by decide⟩
  obtain ⟨t, e, ht, he, -, hfin⟩ := steps_transaction_finished hr hp
  obtain ⟨hhash, hhit⟩ := legacy_of_overrideOf_some (key := [b0, b1]) hv
  exact ⟨t, e, ht, he, hfin.result_eq.trans hhash, hfin.oh_eq.trans hhit, hfin.rv_eq, hfin.err_eq⟩

/-- Settles O50: the finished transaction has the generic value of a key without an override value. -/
theorem unmatchedPairFallsThrough : Obligations.UnmatchedPairFallsThrough := by
  intro s k b0 b1 rest hr hv hp
  obtain ⟨t, e, ht, he, -, hfin⟩ := steps_transaction_finished hr hp
  obtain ⟨hhash, hhit⟩ := legacy_of_overrideOf_none (key := [b0, b1]) hv
  exact ⟨t, e, ht, he, hfin.result_eq.trans hhash, hfin.oh_eq.trans hhit, hfin.rv_eq, hfin.err_eq⟩

/-- Settles O14: the complement is the exclusive or with all ones. -/
theorem stdFinalisationIsComplement : Obligations.StdFinalisationIsComplement :=
  fun _ => ⟨rfl, BitVec.xor_allOnes.symm⟩

/-- Settles O15: the mask is all ones on bits 14:0, where the shift has put bits 30:16, and zero above. -/
theorem legacyGenericBits : Obligations.LegacyGenericBits := by
  intro c
  have hlow : (0x7FFF#32).extractLsb' 0 15 = BitVec.allOnes 15 := rfl
  have hhigh : (0x7FFF#32).extractLsb' 15 17 = 0#17 := rfl
  refine ⟨rfl, ?_, ?_⟩
  · rw [legGenFinal, BitVec.extractLsb'_and, hlow, BitVec.and_allOnes, ← BitVec.setWidth_eq_extractLsb' (by decide),
      BitVec.setWidth_ushiftRight_eq_extractLsb]
  · rw [legGenFinal, BitVec.extractLsb'_and, hhigh, BitVec.and_zero]

/-- Settles O16: a key of another length than 2 has no override value (overrideOf_eq_none), so its LEGACY hash is the generic
value, the complement shifted and masked. -/
theorem legacyIsShiftedStandard : Obligations.LegacyIsShiftedStandard := by
  refine ⟨fun c => rfl, fun key hlen => ?_⟩
  obtain ⟨hhash, -⟩ := legacy_of_overrideOf_none (overrideOf_eq_none hlen)
  exact ⟨hhash, hhash⟩

/-- Settles O17: the four given codes are evaluated; a byte of 0x80 or above sets one of the key's two top bits. -/
theorem overrideSetConstraints : Obligations.OverrideSetConstraints := by
  refine ⟨by decide, by decide, by decide, by decide, fun b0 b1 h => ovrLookup_of_top_bit ?_⟩
  have h0 : (ovrKey b0 b1).getLsbD 15 = b0.getLsbD 7 := BitVec.getLsbD_append
  have h1 : (ovrKey b0 b1).getLsbD 7 = b1.getLsbD 7 := BitVec.getLsbD_append
  rw [h0, h1, Bool.or_eq_true]
  exact h.imp getLsbD_seven_of_le getLsbD_seven_of_le

/-- Settles O18: the mux depends on a matcher only as outMuxWith_congr says. -/
theorem matcherConsultedForLegacyPairsOnly : Obligations.MatcherConsultedForLegacyPairsOnly := by
  intro f g mode len b0 b1 c
  refine ⟨fun h => outMuxWith_congr c fun hm hl => ?_, fun h => outMuxWith_congr c fun _ _ => h, ?_,
    fun key => overrideOf_eq_none⟩
  · obtain h | h := h
    · cases hm.symm.trans h
    · exact absurd hl h
  · rintro v rfl rfl hv
    exact outMuxWith_hit hv c

/-- Settles O19, a choice a clause: the complement, the matcher's value, the generic value by either reason for it. -/
theorem outputMuxChoices : Obligations.OutputMuxChoices := by
  intro mode len b0 b1 c
  refine ⟨?_, ?_, ?_⟩
  · rintro rfl
    rfl
  · rintro v rfl rfl hv
    exact outMuxWith_hit hv c
  · rintro rfl (hlen | hnone)
    · exact outMuxWith_generic ovrLookup b0 b1 c hlen
    · exact outMuxWith_miss hnone len c

/-- Settles O23: FINAL's effect on an engine without error (exec_of_err_none), which is ACTIVE (finalEngine_of_active). -/
theorem finalProducesResult : Obligations.FinalProducesResult := by
  intro s e he herr hactive
  rw [exec_of_err_none .final he herr, effect, finalEngine_of_active e hactive]

/-- Settles O51: FINAL puts the mux's value on RESULT (O23); by the choices of the mux (O19) OH is set on a hit alone, and
every other output is the generic value, which has 15 bits. -/
theorem legacyGenericRange : Obligations.LegacyGenericRange := by
  intro s t e hexec he herr hactive hmode
  have hout := finalProducesResult s e he herr hactive
  rw [hexec, hmode] at hout
  cases hout
  refine ⟨_, setEngine_engine?_self _ _ _ (engine?_eq_some_lt he), ?_⟩
  obtain ⟨-, hhit, hgeneric⟩ := outputMuxChoices .legacy e.len e.b0 e.b1 e.crc
  by_cases hmiss : e.len ≠ 2#2 ∨ ovrLookup (e.b0 ++ e.b1) = none
  · rw [hgeneric rfl hmiss]
    exact ⟨fun _ => legGenFinal_toNat_le e.crc, nofun⟩
  · push Not at hmiss
    obtain ⟨hlen, hsome⟩ := hmiss
    obtain ⟨v, hv⟩ := Option.ne_none_iff_exists'.mp hsome
    rw [hhit v rfl hlen hv]
    exact ⟨nofun, fun _ => ⟨hv, hlen⟩⟩

end Sys2Proof.Machine

/-! PROOFS of the family 60_exceptions: what an error leaves (R162), that it sticks until the engine's reset (R164), and that
no engine sees the accesses to another (R172). -/

namespace Sys2Proof.Machine

/-! ## Commands that record an error, or find one (R161 to R164) -/

/-- Writing back the registers an engine has changes nothing. -/
theorem setEngine_of_engine? {s : State} {k : Nat} {e : Engine} (he : s.engine? k = some e) : s.setEngine k e = s := by
  obtain ⟨hk, rfl⟩ := List.getElem?_eq_some_iff.mp he
  simp [State.setEngine]

/-- A write of a word, legal or not, to an existing engine's CMD completes with the word's effect on that engine behind the
quiescence check (R163). -/
theorem step_cmdWord_of_engine? {s : State} {k : Nat} {w : Word} {e : Engine} {rest : List HostOp}
    (he : s.engine? k = some e) (hp : s.pending = .access (.write k (indexOfReg .cmd) w) :: rest) :
    step s = .next (((s.withPending rest).select k).setEngine k (unlessQuiescent (wordEffect w) e)) := by
  rw [step_cmdWord hp, runCommand_eq_onSelected]
  exact onSelected_of_engine? (s := (s.withPending rest).select k) _ he

theorem wordEffect_of_illegal {w : Word} {why : Illegal} (hw : decode w = .illegal why) :
    wordEffect w = raiseError .illegal w := by
  simp only [wordEffect, hw]

theorem wordEffect_of_legal {w : Word} {i : Instr} (hw : decode w = .legal i) : wordEffect w = effect i := by
  simp only [wordEffect, hw]

/-- The one error a command can record is SEQ with the command's own word, and then it does nothing else (R161, R162). -/
theorem effect_of_error {i : Instr} {e : Engine} (he : e.err = .none) (h : (effect i e).err ≠ .none) :
    effect i e = raiseError .seq (encode i) e := by
  cases i with
  | init m => exact absurd he h
  | feed b =>
    cases hp : e.phase with
    | idle => exact feedEngine_of_idle b e hp
    | active =>
      rw [effect, feedEngine_of_active b e hp] at h
      exact absurd he h
  | final =>
    cases hp : e.phase with
    | idle => exact finalEngine_of_idle e hp
    | active =>
      rw [effect, finalEngine_of_active e hp] at h
      exact absurd he h

/-! ## The frame of one served access -/

/-- Serving a register access leaves every engine but the access's own (R172). -/
theorem serveAccess_engine?_of_ne {s t : State} {a : Access} {j : Nat} (h : serveAccess a s = .next t)
    (hj : opEngine (.access a) ≠ some j) : t.engine? j = s.engine? j := by
  obtain ⟨k, w, e, rfl, -, rfl⟩ | ⟨k, r, w, -, -, rfl⟩ | ⟨k, i, r, -, -, rfl⟩ := serveAccess_next h
  · exact setEngine_engine?_of_ne _ _ _ _ fun hk => hj (congrArg some hk)
  · rfl
  · rfl

/-- The reset of one engine leaves every other (R182). -/
theorem serveReset_engine?_of_ne {s t : State} {k j : Nat} (h : serveReset k s = .next t) (hj : j ≠ k) :
    t.engine? j = s.engine? j := by
  obtain ⟨e, c, b0, b1, r, -, rfl⟩ := serveReset_next h
  exact setEngine_engine?_of_ne s _ _ _ hj.symm

/-- Serving a register access leaves the accesses still pending. -/
theorem serveAccess_pending {s t : State} {a : Access} (h : serveAccess a s = .next t) : t.pending = s.pending := by
  obtain ⟨k, w, e, -, -, rfl⟩ | ⟨k, r, w, -, -, rfl⟩ | ⟨k, i, r, -, -, rfl⟩ := serveAccess_next h
  · rfl
  · rfl
  · rfl

/-- A register access leaves an engine with an error recorded as it was, even one of its own (R164). -/
theorem serveAccess_quiescent {s t : State} {a : Access} {k : Nat} {e : Engine} (he : s.engine? k = some e)
    (herr : e.err ≠ .none) (h : serveAccess a s = .next t) : t.engine? k = some e := by
  by_cases hk : opEngine (.access a) = some k
  · obtain ⟨j, w, f, rfl, hf, rfl⟩ | ⟨j, r, w, -, -, rfl⟩ | ⟨j, i, r, -, -, rfl⟩ := serveAccess_next h
    · obtain rfl : j = k := Option.some.inj hk
      obtain rfl : f = e := Option.some.inj (hf.symm.trans he)
      rw [unlessQuiescent_of_err herr, setEngine_of_engine? (s := s.select j) he]
      exact he
    · exact he
    · exact he
  · rw [serveAccess_engine?_of_ne h hk, he]

/-! ## Steps and runs -/

/-- A step takes the oldest access, if there is one, off the pending ones, whatever kind it is. -/
theorem step_pending {s t : State} (h : step s = .next t) : t.pending = s.pending.tail := by
  obtain ⟨hp, rfl⟩ | ⟨a, rest, hp, ht⟩ | ⟨b, rest, p, hp, -, ht⟩ | ⟨k, rest, hp, ht⟩ := step_next h
  · simp [hp]
  · simpa [hp] using serveAccess_pending ht
  · have keeps : t.pending = rest := servePlan_keeps (P := fun u => u.pending = rest)
      (fun _ _ _ hu hv => (serveAccess_pending hv).trans hu) (fun _ _ _ _ hu => hu) rfl ht
    simpa [hp] using keeps
  · obtain ⟨e, c, b0, b1, r, -, rfl⟩ := serveReset_next ht
    simp [hp]

/-- A step that is not the engine's reset leaves an engine with an error recorded as it was: a bus access too, since no plan
of HOST_BUS holds a reset (R164). -/
theorem step_quiescent {s t : State} {k : Nat} {e : Engine} (he : s.engine? k = some e) (herr : e.err ≠ .none)
    (hreset : s.pending.head? ≠ some (.reset k)) (h : step s = .next t) : t.engine? k = some e := by
  obtain ⟨-, rfl⟩ | ⟨a, rest, -, ht⟩ | ⟨b, rest, p, -, -, ht⟩ | ⟨j, rest, hp, ht⟩ := step_next h
  · exact he
  · exact serveAccess_quiescent (s := s.withPending rest) he herr ht
  · exact servePlan_keeps (P := fun u => u.engine? k = some e) (fun _ _ _ hu hv => serveAccess_quiescent hu herr hv)
      (fun _ _ _ _ hu => hu) (s := s.withPending rest) he ht
  · have hkj : k ≠ j := by
      rintro rfl
      exact hreset (by rw [hp, List.head?_cons])
    exact (serveReset_engine?_of_ne ht hkj).trans he

/-- A run of n + 1 steps that completes is a step and a run of n that complete. -/
theorem steps_succ_next {n : Nat} {s t : State} (h : steps (n + 1) s = .next t) :
    ∃ u, step s = .next u ∧ steps n u = .next t := by
  rw [steps_succ] at h
  cases hs : step s with
  | next u => exact ⟨u, rfl, by simpa only [hs] using h⟩
  | fault f => simp [hs] at h
  | refused r => simp [hs] at h

/-- A run that does not serve the engine's reset leaves an engine with an error recorded as it was (R164). -/
theorem steps_quiescent {n : Nat} {s t : State} {k : Nat} {e : Engine} (he : s.engine? k = some e) (herr : e.err ≠ .none)
    (hreset : ∀ op ∈ s.pending.take n, op ≠ .reset k) (h : steps n s = .next t) : t.engine? k = some e := by
  induction n generalizing s with
  | zero =>
    cases h
    exact he
  | succ n ih =>
    obtain ⟨u, hu, ht⟩ := steps_succ_next h
    refine ih (step_quiescent he herr (fun hk => ?_) hu) (fun op hop => ?_) ht
    · exact hreset _ (List.mem_of_mem_head? (by simpa [List.head?_take] using hk)) rfl
    · rw [step_pending hu, ← List.drop_one, List.take_drop] at hop
      exact hreset op (List.mem_of_mem_drop (by rwa [Nat.add_comm] at hop))

/-! ## Interleavings of commands (R172) -/

/-- The accesses of a list that are for engine k. -/
def ownAccesses (k : Nat) (ops : List HostOp) : List HostOp := ops.filter fun op => decide (opEngine op = some k)

theorem ownAccesses_cons_self {k : Nat} {op : HostOp} (h : opEngine op = some k) (ops : List HostOp) :
    ownAccesses k (op :: ops) = op :: ownAccesses k ops :=
  List.filter_cons_of_pos (decide_eq_true h)

theorem ownAccesses_cons_of_ne {k : Nat} {op : HostOp} (h : opEngine op ≠ some k) (ops : List HostOp) :
    ownAccesses k (op :: ops) = ownAccesses k ops :=
  List.filter_cons_of_neg (by simpa using h)

/-- A run that begins with a command write to an existing engine goes on from the word's effect on that engine. -/
theorem steps_commandWrite {s : State} {k : Nat} {e : Engine} (he : s.engine? k = some e) (w : Word) (n : Nat)
    (rest : List HostOp) :
    steps (n + 1) (s.withPending (.access (.write k (indexOfReg .cmd) w) :: rest)) =
      steps n (((s.select k).setEngine k (unlessQuiescent (wordEffect w) e)).withPending rest) :=
  steps_succ_of_next
    (step_cmdWord_of_engine? (s := s.withPending (.access (.write k (indexOfReg .cmd) w) :: rest)) he rfl)

/-- From two states that agree on engine k, a run of command writes in the one and a run of engine k's writes alone in the
other complete, and agree on engine k: a write to engine k is a step of both and depends on its registers alone, a write to
another engine is a step of the first that leaves engine k. -/
theorem steps_ownAccesses {s s' : State} {ops : List HostOp} {k : Nat} (hops : ∀ op ∈ ops, s.IsCommandWrite op)
    (hk : s.engine? k = s'.engine? k) :
    ∃ t t', steps ops.length (s.withPending ops) = .next t ∧
      steps (ownAccesses k ops).length (s'.withPending (ownAccesses k ops)) = .next t' ∧ t.engine? k = t'.engine? k := by
  induction ops generalizing s s' with
  | nil => exact ⟨s.withPending [], s'.withPending [], rfl, rfl, hk⟩
  | cons op ops ih =>
    obtain ⟨⟨j, w, rfl, hj⟩, hrest⟩ := List.forall_mem_cons.mp hops
    obtain ⟨e, he⟩ := exists_engine? hj
    have hrest' : ∀ op ∈ ops, ((s.select j).setEngine j (unlessQuiescent (wordEffect w) e)).IsCommandWrite op := by
      simpa [State.IsCommandWrite] using hrest
    rw [List.length_cons, steps_commandWrite he]
    by_cases hjk : j = k
    · subst hjk
      have he' : s'.engine? j = some e := hk.symm.trans he
      rw [ownAccesses_cons_self rfl, List.length_cons, steps_commandWrite he']
      refine ih hrest' ?_
      rw [setEngine_engine?_self (s.select j) _ _ hj,
        setEngine_engine?_self (s'.select j) _ _ (engine?_eq_some_lt (s := s') he')]
    · have hother : opEngine (.access (.write j (indexOfReg .cmd) w)) ≠ some k := fun h => hjk (Option.some.inj h)
      rw [ownAccesses_cons_of_ne hother]
      exact ih hrest' ((setEngine_engine?_of_ne _ _ _ _ hjk).trans hk)

/-! ## The statements -/

/-- Settles O32: on an engine without error the write is the word's effect; an illegal word's is the error entry (R162), and
so is that of a command which leaves an error (effect_of_error). -/
theorem errorsArePrecise : Obligations.ErrorsArePrecise := by
  intro s t k w e e' rest hp he herr hstep he' herr'
  rw [step_cmdWord_of_engine? he hp, unlessQuiescent_of_none herr] at hstep
  cases hstep
  obtain rfl : wordEffect w e = e' :=
    Option.some.inj ((setEngine_engine?_self _ _ _ (engine?_eq_some_lt (s := s) he)).symm.trans he')
  have frame : ∀ j, j ≠ k → (((s.withPending rest).select k).setEngine k (wordEffect w e)).engine? j = s.engine? j :=
    fun j hj => setEngine_engine?_of_ne _ _ _ _ hj.symm
  cases hw : decode w with
  | illegal why =>
    rw [wordEffect_of_illegal hw] at frame ⊢
    exact ⟨rfl, fun _ _ => rfl, nofun, frame, rfl, rfl, rfl, rfl, rfl⟩
  | legal i =>
    have hraise : wordEffect w e = raiseError .seq w e := by
      rw [wordEffect_of_legal hw] at herr' ⊢
      rw [effect_of_error herr herr', ← eq_encode_of_decode hw]
    rw [hraise] at frame ⊢
    exact ⟨rfl, nofun, fun _ _ => rfl, frame, rfl, rfl, rfl, rfl, rfl⟩

/-- Settles O33, by induction on the run (steps_quiescent); a read is answered whatever ERR is (step_read_of_value). -/
theorem errorsStickUntilReset : Obligations.ErrorsStickUntilReset :=
  ⟨fun _ _ _ _ _ he herr hreset h => steps_quiescent he herr hreset h,
    fun _ _ _ _ _ _ he _ hp hv => step_read_of_value he hv hp⟩

/-- Settles O40: the frames of a register access and of a reset. -/
theorem otherEnginesUntouched : Obligations.OtherEnginesUntouched := by
  intro s t op rest k j hp hop hstep hj
  rw [step_cons hp] at hstep
  cases op with
  | access a =>
    have hother : opEngine (.access a) ≠ some j := fun h => hj (Option.some.inj (h.symm.trans hop))
    exact serveAccess_engine?_of_ne (s := s.withPending rest) hstep hother
  | bus b => cases hop
  | reset i =>
    cases hop
    exact serveReset_engine?_of_ne (s := s.withPending rest) hstep hj

/-- Settles O52: the two runs start from states with the same engines (steps_ownAccesses). -/
theorem enginesAreIndependent : Obligations.EnginesAreIndependent :=
  fun _ _ _ hops => steps_ownAccesses hops rfl

/-- Settles O24: on an engine without error the command is its register effect (exec_of_err_none), while IDLE the error
entry with the command's word. -/
theorem outOfSequenceRaisesSeq : Obligations.OutOfSequenceRaisesSeq := by
  intro s e he herr hidle
  refine ⟨fun b => ?_, ?_⟩
  · rw [exec_of_err_none (.feed b) he herr, effect, feedEngine_of_idle b e hidle]
    rfl
  · rw [exec_of_err_none .final he herr, effect, finalEngine_of_idle e hidle]
    rfl

/-- Settles O25: the quiescence check writes back the registers the engine has. -/
theorem quiescentEngineIgnoresCommands : Obligations.QuiescentEngineIgnoresCommands := by
  intro i s e he herr
  rw [exec_eq_onSelected, onSelected_of_engine? _ he, unlessQuiescent_of_err herr, setEngine_of_engine? he]

/-- Settles O26: no engine has the selected number (engine?_eq_none). -/
theorem commandNeedsAnEngine : Obligations.CommandNeedsAnEngine := by
  intro i s hsel
  rw [exec_eq_onSelected, onSelected, engine?_eq_none hsel]

/-- Settles O31: the write is the word's effect behind the quiescence check; with ERR set the check stops it, else an illegal
word is the error entry (R162), and a legal one its command. -/
theorem commandWriteOrder : Obligations.CommandWriteOrder := by
  intro s k w e rest hp he
  have hstep := step_cmdWord_of_engine? he hp
  refine ⟨fun herr => ?_, fun why herr hw => ?_, fun i _ hw => step_cmdWord_of_legal hp hw⟩
  · rw [hstep, unlessQuiescent_of_err herr, setEngine_of_engine? (s := (s.withPending rest).select k) he]
  · rw [hstep, unlessQuiescent_of_none herr, wordEffect_of_illegal hw]
    rfl

/-- Settles O39: a step has no access to serve. -/
theorem idleStatePersists : Obligations.IdleStatePersists := by
  intro s hp
  rw [step, hp]

end Sys2Proof.Machine

/-! PROOFS of the family 70_reset_and_hazards: what a reset leaves (R180 to R182), what the first command after it does, and
that written commands are served (R188). -/

namespace Sys2Proof.Machine

/-! ## The reset values -/

/-- STATUS reads 0 after a reset, whatever the unspecified registers hold (R180). -/
theorem statusWord_afterReset (c : Word) (b0 b1 : Byte) (r : Word) : statusWord (Engine.afterReset c b0 b1 r) = 0#32 := by
  simp [statusWord, Engine.afterReset, errBits, modeBit, phaseBit]

/-- Every engine of the block at reset is at R180's values. -/
theorem reset_engines_eq_replicate :
    State.reset.engines = List.replicate (Config.extraEngines + 1) (Engine.afterReset 0#32 0#8 0#8 0#32) := rfl

theorem eq_afterReset_of_mem_reset {e : Engine} (h : e ∈ State.reset.engines) :
    e = Engine.afterReset 0#32 0#8 0#8 0#32 :=
  List.eq_of_mem_replicate (reset_engines_eq_replicate ▸ h)

/-- The reset of an existing engine answers a next state, in error or not: that engine has R180's values, and beside it only
the count of draws has moved. -/
theorem serveReset_of_engine? {s : State} {k : Nat} {e : Engine} (he : s.engine? k = some e) :
    ∃ c b0 b1 r, serveReset k s =
      .next { s.setEngine k (Engine.afterReset c b0 b1 r) with freeCtr := s.freeCtr + 1 } := by
  simp only [serveReset, he]
  exact ⟨_, _, _, _, rfl⟩

/-! ## A command placed for the next step -/

/-- The number of a command's word reads as that command. -/
theorem decodeTableWord_encode (i : Instr) : decodeTableWord 32 (encode i).toNat = some i := by
  rw [decodeTableWord, Nat.mod_eq_of_lt (encode i).isLt, BitVec.ofNat_toNat, BitVec.setWidth_eq, decode_encode]

/-- A command's word placed for the next step of a block whose selected engine has no error completes with the command's
effect on that engine. -/
theorem step_withFetchWord_encode (i : Instr) {s : State} {e : Engine} (he : s.engine? s.sel = some e)
    (herr : e.err = .none) :
    ∃ t, step (s.withFetchWord 32 (encode i).toNat) = .next t ∧ t.engine? s.sel = some (effect i e) :=
  ⟨_, (fetchedWordRunsNext s _ i (decodeTableWord_encode i)).trans (exec_of_err_none i he herr),
    setEngine_engine?_self _ _ _ (engine?_eq_some_lt he)⟩

/-! ## Runs and the pending accesses -/

/-- A run of n steps takes the n oldest accesses off the pending ones (R58). -/
theorem steps_pending {n : Nat} {s t : State} (h : steps n s = .next t) : t.pending = s.pending.drop n := by
  induction n generalizing s with
  | zero =>
    cases h
    rfl
  | succ n ih =>
    obtain ⟨u, hu, ht⟩ := steps_succ_next h
    rw [ih ht, step_pending hu, List.drop_tail]

/-! ## The statements -/

/-- Settles O53: a run over command writes completes, as O52 says of any engine, and n steps take n accesses off the pending
ones (steps_pending). -/
theorem pendingCommandsAreServed : Obligations.PendingCommandsAreServed := by
  intro s hops
  obtain ⟨t, -, ht, -, -⟩ := enginesAreIndependent s s.pending 0 hops
  have hpending : t.pending = s.pending.drop s.pending.length := steps_pending ht
  exact ⟨t, ht, hpending.trans List.drop_length⟩

/-- Settles O41: every engine at reset is at R180's values (eq_afterReset_of_mem_reset). -/
theorem resetStateReadsZero : Obligations.ResetStateReadsZero := by
  refine ⟨?_, rfl, rfl, rfl, fun e he => ?_⟩
  · rw [reset_engines_eq_replicate, List.length_replicate]
  · obtain rfl := eq_afterReset_of_mem_reset he
    exact ⟨statusWord_afterReset _ _ _ _, rfl, rfl, rfl, rfl, rfl, rfl, rfl⟩

/-- Settles O42: the reset writes R180's values to its engine (serveReset_of_engine?), and no other engine. -/
theorem resetTouchesOneEngine : Obligations.ResetTouchesOneEngine := by
  intro s k e rest he hp
  obtain ⟨c, b0, b1, r, hserve⟩ := serveReset_of_engine? (s := s.withPending rest) he
  have hself := setEngine_engine?_self s (Engine.afterReset c b0 b1 r) k (engine?_eq_some_lt he)
  have hothers : ∀ j, j ≠ k → (s.setEngine k (Engine.afterReset c b0 b1 r)).engine? j = s.engine? j :=
    fun j hj => setEngine_engine?_of_ne _ _ _ _ hj.symm
  exact ⟨_, _, (step_cons hp).trans hserve, hself, rfl, rfl, rfl, rfl, rfl, rfl, rfl, statusWord_afterReset c b0 b1 r,
    hothers, List.length_set, rfl, rfl, rfl, rfl, rfl⟩

/-- Settles O43: engine 0 of the block at reset is IDLE and without error, so INIT opens a transaction, while FEED and FINAL
are the SEQ error with their word (R111, R137). -/
theorem firstCommandMustBeInit : Obligations.FirstCommandMustBeInit := by
  have first (i : Instr) := step_withFetchWord_encode i (s := State.reset) rfl rfl
  refine ⟨fun m => ?_, fun b => ?_, ?_⟩
  · obtain ⟨t, ht, he⟩ := first (.init m)
    exact ⟨t, _, ht, he, rfl, rfl, rfl⟩
  · obtain ⟨t, ht, he⟩ := first (.feed b)
    rw [effect, feedEngine_of_idle b _ rfl] at he
    exact ⟨t, _, ht, he, rfl, rfl, rfl⟩
  · obtain ⟨t, ht, he⟩ := first .final
    rw [effect, finalEngine_of_idle _ rfl] at he
    exact ⟨t, _, ht, he, rfl, rfl, rfl⟩

/-- Settles O54: the reset values meet the engine's invariant (afterReset_inv), nothing has been read and engine 0 exists;
pending accesses do not matter (State.Inv.withPending). -/
theorem resetIsSafe : Obligations.ResetIsSafe := by
  have inv : State.reset.Inv :=
    { engines_inv := fun e he => eq_afterReset_of_mem_reset he ▸ afterReset_inv _ _ _ _
      reads_sound := nofun
      sel_exists := Nat.zero_lt_succ _ }
  exact fun ops => inv.withPending ops

end Sys2Proof.Machine

/-! PROOFS of the family other: the source's check values (V1 to V6, V33, V38). -/

namespace Sys2Proof.Machine

/-- The check value of CRC-32, of the nine ASCII digits "123456789" (V1): nine walk steps, evaluated. -/
theorem standardCrc32_nineDigits :
    standardCrc32 [0x31#8, 0x32#8, 0x33#8, 0x34#8, 0x35#8, 0x36#8, 0x37#8, 0x38#8, 0x39#8] = 0xCBF43926#32 := by
  decide +kernel

/-- A two-byte key that is a code hashes to the code's value in LEGACY, whatever its walk gives (R141). -/
theorem legacyShardHash_of_ovrLookup_some {b0 b1 : Byte} {v : Word} (h : ovrLookup (ovrKey b0 b1) = some v) :
    legacyShardHash [b0, b1] = v :=
  (legacy_of_overrideOf_some (key := [b0, b1]) h).1

/-- A two-byte key that is no code hashes to the generic value of its walk in LEGACY (R141). -/
theorem legacyShardHash_of_ovrLookup_none {b0 b1 : Byte} (h : ovrLookup (ovrKey b0 b1) = none) :
    legacyShardHash [b0, b1] = legGenFinal (acc [b0, b1]) :=
  (legacy_of_overrideOf_none (key := [b0, b1]) h).1

/-- Settles O20: the four codes have the Override Set's values and 0xFF 0xFF is no code (O17), so its generic value is
evaluated; the LEGACY value of the nine digits is the shifted check value (O16). -/
theorem sourceCheckValues : Obligations.SourceCheckValues := by
  obtain ⟨hus, hfr, hbr, hin, hnone⟩ := overrideSetConstraints
  obtain ⟨hshift, -⟩ := legacyIsShiftedStandard.2
    [0x31#8, 0x32#8, 0x33#8, 0x34#8, 0x35#8, 0x36#8, 0x37#8, 0x38#8, 0x39#8] (by decide)
  refine ⟨standardCrc32_nineDigits, by decide, legacyShardHash_of_ovrLookup_some hus,
    legacyShardHash_of_ovrLookup_some hfr, legacyShardHash_of_ovrLookup_some hbr, legacyShardHash_of_ovrLookup_some hin,
    ?_, ?_⟩
  · rw [legacyShardHash_of_ovrLookup_none (hnone 0xFF#8 0xFF#8 (by decide))]
    decide +kernel
  · rw [hshift, standardCrc32_nineDigits]
    decide

end Sys2Proof.Machine
